-- ==== Sys2Proof/Word.lean ====
section
/-!
DEFINITION. Sys2Proof/Word.lean: the word types of the CHIP-8 interpreter engine.

All values are unsigned (00_scope.md R13). Registers, timers and memory bytes are 8 bits, the program counter, the index
register, stack entries and opcodes 16 bits (00_scope.md R9, 10_state.md R30, R34, R37, R38).
-/
namespace Sys2Proof

/-- One byte: a general register, a timer or a memory byte (00_scope.md R9). -/
abbrev Byte := BitVec 8

/-- A 16-bit word: pc, I, a stack entry or an opcode (10_state.md R34, R37, R38; 30_encoding.md R100). -/
abbrev Word := BitVec 16

/-- The 12-bit immediate `nnn` (00_scope.md R16). -/
abbrev Addr := BitVec 12

/-- The index of a general register, always 0 to 15 (10_state.md R30). -/
abbrev Reg := Fin 16

/-- The index of a key, 0 to 15 (10_state.md R43). -/
abbrev Key := Fin 16

/-- Register VF, the flag register (10_state.md R31). -/
abbrev regF : Reg := 15

/-- `n mod m` as an index below `m`: how coordinates wrap and a masked index is formed (44_display.md R222, 45_timers_keys.md
R246). -/
def wrap (m : Nat) [NeZero m] (n : Nat) : Fin m := Fin.ofNat m n

@[simp] theorem wrap_val (m : Nat) [NeZero m] (n : Nat) : (wrap m n).val = n % m := rfl

/-- An index below `m` wraps to itself. -/
@[simp] theorem wrap_self {m : Nat} [NeZero m] (k : Fin m) : wrap m k.val = k := Fin.ext (Nat.mod_eq_of_lt k.isLt)

end Sys2Proof
end

