-- ==== Sys2Proof/Config.lean ====
section
/-!
DEFINITION. Sys2Proof/Config.lean: the fixed sizes, the open parameters of 00_scope.md R11 and the one free value.

The fixed sizes are 00_scope.md R9. The four policies are the named parameters of R11; a machine carries its values of them
in `State.params` (log entry 2), together with the configuration table FONT (20_memory.md R72); the spec's own defaults of them are
`Machine.defaults` of Sys2Proof/Machine/Font.lean. `P_SCALE` (R10) has no default and is an
argument of the framebuffer conversion. `Config.randomByte` is the free value of the random-byte input (60_exceptions.md R278).
-/
namespace Sys2Proof.Config

/-- Memory size in bytes; addresses 0x000 to 0xFFF exist (00_scope.md R9, 20_memory.md R70). -/
abbrev memSize : Nat := 4096

/-- The font table is 0x000 to 0x04F: 16 glyphs of 5 bytes (00_scope.md R9, 20_memory.md R71). -/
abbrev fontSize : Nat := 80

/-- Bytes of one font glyph (00_scope.md R9). -/
abbrev glyphBytes : Nat := 5

/-- Programs are loaded and execution starts at 0x200 (00_scope.md R9, 70_reset_and_hazards.md R301, R302). -/
abbrev progBase : Nat := 0x200

/-- The last address an instruction can be fetched from (40_step_cycle.md R131). -/
abbrev lastFetch : Nat := 0x0FFE

/-- Call-stack capacity (00_scope.md R9). -/
abbrev stackDepth : Nat := 16

/-- Display width in columns (00_scope.md R9). -/
abbrev dispW : Nat := 64

/-- Display height in rows (00_scope.md R9). -/
abbrev dispH : Nat := 32

/-- `P_UNKNOWN_OPCODE`: what a word that decodes to no instruction does (40_step_cycle.md R136). -/
inductive UnknownPolicy where
  | stall  -- report it, leave pc
  | skip   -- report it, advance pc by 2
  | fault  -- raise UNKNOWN_OPCODE
  deriving DecidableEq, Repr

/-- `P_LOOSE_DECODE`: how families 0x0, 0x5 and 0x9 select (30_encoding.md R106, R110). -/
inductive DecodeMode where
  | strict -- exact patterns only
  | loose  -- family 0x0 on the low byte alone, 0x5 and 0x9 on the family alone
  deriving DecidableEq, Repr

/-- `P_FONT_WRITE`: what a data write to 0x000..0x04F does (20_memory.md R77). -/
inductive FontPolicy where
  | fault  -- raise FONT_WRITE before anything is written
  | write  -- write like any other byte
  | ignore -- drop the bytes below 0x050, write the others
  deriving DecidableEq, Repr

/-- `P_KEY_INDEX`: what a key index above 15 does (45_timers_keys.md R246). -/
inductive KeyPolicy where
  | fault -- raise KEY_RANGE
  | mask  -- use the index modulo 16
  deriving DecidableEq, Repr

/-- The parameters of the block: the four policies of a step (00_scope.md R11, 10_state.md R47), and the configuration table FONT
that reset seeds memory with (20_memory.md R72; log entry 8). -/
structure Params where
  unknownOpcode : UnknownPolicy
  decode        : DecodeMode
  fontWrite     : FontPolicy
  keyIndex      : KeyPolicy
  font          : Vector Byte fontSize
  deriving DecidableEq, Repr

/-- FREE VALUE (log entry 3). The `k`-th byte of the random-byte input, for a step whose host has supplied no byte: a draw
under no law (60_exceptions.md R278, 92_eei_decisions.md D22). It has no body, so nothing about it can be proved. -/
opaque randomByte : Nat → Byte

end Sys2Proof.Config
end

