-- ==== Sys2Proof/Syntax.lean ====
section
/-!
DEFINITION. Sys2Proof/Syntax.lean: the 34 instructions of the opcode map (30_encoding.md R105), one constructor per row of
spec/opcode_table.json, in the table's order.

The operand types carry the field widths of 30_encoding.md R101 and R103: `x` and `y` are 4-bit register indices, `n` a 4-bit,
`nn` an 8-bit and `nnn` a 12-bit immediate. 8xy6 and 8xyE keep their `y` field, which is decoded but not used (R104), so that
an instruction determines its word.
-/
namespace Sys2Proof

inductive Instr where
  /-- 00E0 CLS: clear the display (44_display.md R220). -/
  | cls
  /-- 00EE RET: return from subroutine (41_control_flow.md R150). -/
  | ret
  /-- 1nnn JP nnn: jump (R151). -/
  | jpNnn (nnn : Addr)
  /-- 2nnn CALL nnn: call (R152). -/
  | callNnn (nnn : Addr)
  /-- 3xnn SE Vx, nn: skip if equal (R153). -/
  | seVxNn (x : Reg) (nn : Byte)
  /-- 4xnn SNE Vx, nn: skip if not equal (R154). -/
  | sneVxNn (x : Reg) (nn : Byte)
  /-- 5xy0 SE Vx, Vy: skip if equal (R155). -/
  | seVxVy (x y : Reg)
  /-- 6xnn LD Vx, nn: load immediate (42_alu.md R173). -/
  | ldVxNn (x : Reg) (nn : Byte)
  /-- 7xnn ADD Vx, nn: add immediate (R174). -/
  | addVxNn (x : Reg) (nn : Byte)
  /-- 8xy0 LD Vx, Vy: assign (R175). -/
  | ldVxVy (x y : Reg)
  /-- 8xy1 OR Vx, Vy (R176). -/
  | orVxVy (x y : Reg)
  /-- 8xy2 AND Vx, Vy (R177). -/
  | andVxVy (x y : Reg)
  /-- 8xy3 XOR Vx, Vy (R178). -/
  | xorVxVy (x y : Reg)
  /-- 8xy4 ADD Vx, Vy: VF is the carry (R179). -/
  | addVxVy (x y : Reg)
  /-- 8xy5 SUB Vx, Vy: VF is Vx > Vy (R180). -/
  | subVxVy (x y : Reg)
  /-- 8xy6 SHR Vx: VF is the old bit 0; `y` is not used (R181). -/
  | shrVx (x y : Reg)
  /-- 8xy7 SUBN Vx, Vy: VF is Vy > Vx (R182). -/
  | subnVxVy (x y : Reg)
  /-- 8xyE SHL Vx: VF is the old bit 7; `y` is not used (R183). -/
  | shlVx (x y : Reg)
  /-- 9xy0 SNE Vx, Vy: skip if not equal (41_control_flow.md R156). -/
  | sneVxVy (x y : Reg)
  /-- Annn LD I, nnn: set the index register (43_index_memory.md R200). -/
  | ldINnn (nnn : Addr)
  /-- Bnnn JP V0, nnn: jump with offset (41_control_flow.md R157). -/
  | jpV0Nnn (nnn : Addr)
  /-- Cxnn RND Vx, nn: masked random byte (42_alu.md R184). -/
  | rndVxNn (x : Reg) (nn : Byte)
  /-- Dxyn DRW Vx, Vy, n: draw a sprite of n rows (44_display.md R221). -/
  | drwVxVyN (x y : Reg) (n : BitVec 4)
  /-- Ex9E SKP Vx: skip if key pressed (45_timers_keys.md R240). -/
  | skpVx (x : Reg)
  /-- ExA1 SKNP Vx: skip if key not pressed (R241). -/
  | sknpVx (x : Reg)
  /-- Fx07 LD Vx, DT: read the delay timer (R242). -/
  | ldVxDt (x : Reg)
  /-- Fx0A LD Vx, K: wait for a key (R243). -/
  | ldVxK (x : Reg)
  /-- Fx15 LD DT, Vx: write the delay timer (R244). -/
  | ldDtVx (x : Reg)
  /-- Fx18 LD ST, Vx: write the sound timer (R245). -/
  | ldStVx (x : Reg)
  /-- Fx1E ADD I, Vx (43_index_memory.md R201). -/
  | addIVx (x : Reg)
  /-- Fx29 LD F, Vx: address of a font glyph (R202). -/
  | ldFVx (x : Reg)
  /-- Fx33 LD B, Vx: store the decimal digits (R203). -/
  | ldBVx (x : Reg)
  /-- Fx55 LD [I], Vx: store V0..Vx (R204). -/
  | ldMemVx (x : Reg)
  /-- Fx65 LD Vx, [I]: load V0..Vx (R205). -/
  | ldVxMem (x : Reg)
  deriving DecidableEq, Repr

end Sys2Proof
end

