-- ==== Sys2Proof/WellFormed.lean ====
section
/-!
DEFINITION. Sys2Proof/WellFormed.lean: the checks on an instruction's operand fields.

Every field has a fixed width (30_encoding.md R101, R103, R104; 00_scope.md R16): a register index and `n` fit 4 bits, `nn` 8
bits and `nnn` 12 bits. The types of Sys2Proof/Syntax.lean already carry these bounds, so `Instr.wf` holds of every term
(`Sys2Proof.Laws.WellFormed`); the checks themselves are on the numbers, so that a number which fits no field is refused.
-/
namespace Sys2Proof

/-- The operand fields of an instruction as numbers; a field its format does not use is 0 (30_encoding.md R102). -/
structure Fields where
  x   : Nat := 0
  y   : Nat := 0
  n   : Nat := 0
  nn  : Nat := 0
  nnn : Nat := 0
  deriving DecidableEq, Repr

/-- Each field fits its bits: `x`, `y`, `n` 4, `nn` 8, `nnn` 12 (30_encoding.md R101). -/
def Fields.wf (f : Fields) : Bool :=
  decide (f.x < 16) && decide (f.y < 16) && decide (f.n < 16) && decide (f.nn < 256) && decide (f.nnn < 4096)

/-- The fields an instruction's format uses (30_encoding.md R102). -/
def Instr.fields : Instr → Fields
  | .cls => {}
  | .ret => {}
  | .jpNnn nnn => { nnn := nnn.toNat }
  | .callNnn nnn => { nnn := nnn.toNat }
  | .seVxNn x nn => { x := x.val, nn := nn.toNat }
  | .sneVxNn x nn => { x := x.val, nn := nn.toNat }
  | .seVxVy x y => { x := x.val, y := y.val }
  | .ldVxNn x nn => { x := x.val, nn := nn.toNat }
  | .addVxNn x nn => { x := x.val, nn := nn.toNat }
  | .ldVxVy x y => { x := x.val, y := y.val }
  | .orVxVy x y => { x := x.val, y := y.val }
  | .andVxVy x y => { x := x.val, y := y.val }
  | .xorVxVy x y => { x := x.val, y := y.val }
  | .addVxVy x y => { x := x.val, y := y.val }
  | .subVxVy x y => { x := x.val, y := y.val }
  | .shrVx x y => { x := x.val, y := y.val }
  | .subnVxVy x y => { x := x.val, y := y.val }
  | .shlVx x y => { x := x.val, y := y.val }
  | .sneVxVy x y => { x := x.val, y := y.val }
  | .ldINnn nnn => { nnn := nnn.toNat }
  | .jpV0Nnn nnn => { nnn := nnn.toNat }
  | .rndVxNn x nn => { x := x.val, nn := nn.toNat }
  | .drwVxVyN x y n => { x := x.val, y := y.val, n := n.toNat }
  | .skpVx x => { x := x.val }
  | .sknpVx x => { x := x.val }
  | .ldVxDt x => { x := x.val }
  | .ldVxK x => { x := x.val }
  | .ldDtVx x => { x := x.val }
  | .ldStVx x => { x := x.val }
  | .addIVx x => { x := x.val }
  | .ldFVx x => { x := x.val }
  | .ldBVx x => { x := x.val }
  | .ldMemVx x => { x := x.val }
  | .ldVxMem x => { x := x.val }

/-- An instruction is well formed when every field it uses fits its bits. -/
def Instr.wf (i : Instr) : Bool := i.fields.wf

end Sys2Proof
end

