-- ==== Sys2Proof/Decode.lean ====
section
/-!
DEFINITION. Sys2Proof/Decode.lean: the decoder (30_encoding.md R100 to R113) and, after it, the encoder.

Decode is total: every 16-bit word is one instruction or UNKNOWN (R111), and it routes on the family nibble first, families
0x0, 0x8, 0xE and 0xF on a secondary field (R105). The two decode modes are `P_LOOSE_DECODE` (R106, R110).
-/
namespace Sys2Proof
open Config (DecodeMode)

/-- `op[15:12]` (00_scope.md R16). -/
def opFamily (op : Word) : BitVec 4 := op.extractLsb' 12 4

/-- `x = op[11:8]` (00_scope.md R16). -/
def opX (op : Word) : Reg := (op.extractLsb' 8 4).toFin

/-- `y = op[7:4]` (00_scope.md R16). -/
def opY (op : Word) : Reg := (op.extractLsb' 4 4).toFin

/-- `n = op[3:0]` (00_scope.md R16). -/
def opN (op : Word) : BitVec 4 := op.extractLsb' 0 4

/-- `nn = op[7:0]` (00_scope.md R16). -/
def opNN (op : Word) : Byte := op.extractLsb' 0 8

/-- `nnn = op[11:0]` (00_scope.md R16). -/
def opNNN (op : Word) : Addr := op.extractLsb' 0 12

/-- Family 0x0 selects on the whole word under `strict` and on the low byte alone under `loose` (30_encoding.md R106). -/
def decodeFamily0 (mode : DecodeMode) (op : Word) : Option Instr :=
  if mode = .loose ∨ op.extractLsb' 8 4 = 0x0#4 then
    match opNN op with
    | 0xE0#8 => some .cls
    | 0xEE#8 => some .ret
    | _ => none
  else none

/-- Families 0x5 and 0x9 are exact under `strict` (low nibble 0) and ignore the low nibble under `loose`
(30_encoding.md R110, 90_conflicts.md C2). -/
def decodeIfExact (mode : DecodeMode) (op : Word) (i : Instr) : Option Instr :=
  if mode = .loose ∨ opN op = 0x0#4 then some i else none

/-- Family 0x8 selects on the low nibble (30_encoding.md R107). -/
def decodeFamily8 (op : Word) : Option Instr :=
  match opN op with
  | 0x0#4 => some (.ldVxVy (opX op) (opY op))
  | 0x1#4 => some (.orVxVy (opX op) (opY op))
  | 0x2#4 => some (.andVxVy (opX op) (opY op))
  | 0x3#4 => some (.xorVxVy (opX op) (opY op))
  | 0x4#4 => some (.addVxVy (opX op) (opY op))
  | 0x5#4 => some (.subVxVy (opX op) (opY op))
  | 0x6#4 => some (.shrVx (opX op) (opY op))
  | 0x7#4 => some (.subnVxVy (opX op) (opY op))
  | 0xE#4 => some (.shlVx (opX op) (opY op))
  | _ => none

/-- Family 0xE selects on the low byte (30_encoding.md R108). -/
def decodeFamilyE (op : Word) : Option Instr :=
  match opNN op with
  | 0x9E#8 => some (.skpVx (opX op))
  | 0xA1#8 => some (.sknpVx (opX op))
  | _ => none

/-- Family 0xF selects on the low byte (30_encoding.md R109). -/
def decodeFamilyF (op : Word) : Option Instr :=
  match opNN op with
  | 0x07#8 => some (.ldVxDt (opX op))
  | 0x0A#8 => some (.ldVxK (opX op))
  | 0x15#8 => some (.ldDtVx (opX op))
  | 0x18#8 => some (.ldStVx (opX op))
  | 0x1E#8 => some (.addIVx (opX op))
  | 0x29#8 => some (.ldFVx (opX op))
  | 0x33#8 => some (.ldBVx (opX op))
  | 0x55#8 => some (.ldMemVx (opX op))
  | 0x65#8 => some (.ldVxMem (opX op))
  | _ => none

/-- The opcode map (30_encoding.md R105): `none` is the class UNKNOWN (R111). -/
def decodeWord (mode : DecodeMode) (op : Word) : Option Instr :=
  match opFamily op with
  | 0x0#4 => decodeFamily0 mode op
  | 0x1#4 => some (.jpNnn (opNNN op))
  | 0x2#4 => some (.callNnn (opNNN op))
  | 0x3#4 => some (.seVxNn (opX op) (opNN op))
  | 0x4#4 => some (.sneVxNn (opX op) (opNN op))
  | 0x5#4 => decodeIfExact mode op (.seVxVy (opX op) (opY op))
  | 0x6#4 => some (.ldVxNn (opX op) (opNN op))
  | 0x7#4 => some (.addVxNn (opX op) (opNN op))
  | 0x8#4 => decodeFamily8 op
  | 0x9#4 => decodeIfExact mode op (.sneVxVy (opX op) (opY op))
  | 0xA#4 => some (.ldINnn (opNNN op))
  | 0xB#4 => some (.jpV0Nnn (opNNN op))
  | 0xC#4 => some (.rndVxNn (opX op) (opNN op))
  | 0xD#4 => some (.drwVxVyN (opX op) (opY op) (opN op))
  | 0xE#4 => decodeFamilyE op
  | 0xF#4 => decodeFamilyF op
  | _ => none

/-- Why a byte stream gives no instruction. -/
inductive DecodeReject where
  | truncated            -- fewer than two bytes
  | unknown (op : Word)  -- a word of the class UNKNOWN (30_encoding.md R111)
  deriving DecidableEq, Repr

/-- Two bytes make a word, the first byte the high one (20_memory.md R73, 40_step_cycle.md R131). -/
def wordOf (hi lo : Byte) : Word := hi ++ lo

/-- The first instruction of a byte stream and the bytes after it (30_encoding.md R100), or the reason there is none. -/
def decode (mode : DecodeMode) : List Byte → Except DecodeReject (Instr × List Byte)
  | hi :: lo :: rest =>
    match decodeWord mode (wordOf hi lo) with
    | some i => .ok (i, rest)
    | none => .error (.unknown (wordOf hi lo))
  | _ => .error .truncated

/-- The two bytes of a word as they lie in memory, high byte first (20_memory.md R73). -/
def wordBytes (op : Word) : List Byte := [op.extractLsb' 8 8, op.extractLsb' 0 8]

/-- The instruction the decoder (in the default mode, `strict`) reads from the word `w` of the opcode table, laid out as the
hardware stores it. An instruction is one 16-bit word, so a table row of more bits is none (30_encoding.md R100; log entries 9 and 18). -/
def decodeTableWord (nbits w : Nat) : Option Instr :=
  if nbits ≤ 16 then
    match decode DecodeMode.strict (wordBytes (BitVec.ofNat 16 (w % 2 ^ nbits))) with
    | .ok (i, _) => some i
    | .error _ => none
  else none

/-- A register index as its 4-bit field (30_encoding.md R104). -/
def regField (r : Reg) : BitVec 4 := BitVec.ofFin r

/-- The word of an instruction, from the patterns of 30_encoding.md R102 and R105. -/
def encode : Instr → Word
  | .cls => 0x00E0#16
  | .ret => 0x00EE#16
  | .jpNnn nnn => 0x1#4 ++ nnn
  | .callNnn nnn => 0x2#4 ++ nnn
  | .seVxNn x nn => 0x3#4 ++ regField x ++ nn
  | .sneVxNn x nn => 0x4#4 ++ regField x ++ nn
  | .seVxVy x y => 0x5#4 ++ regField x ++ regField y ++ 0x0#4
  | .ldVxNn x nn => 0x6#4 ++ regField x ++ nn
  | .addVxNn x nn => 0x7#4 ++ regField x ++ nn
  | .ldVxVy x y => 0x8#4 ++ regField x ++ regField y ++ 0x0#4
  | .orVxVy x y => 0x8#4 ++ regField x ++ regField y ++ 0x1#4
  | .andVxVy x y => 0x8#4 ++ regField x ++ regField y ++ 0x2#4
  | .xorVxVy x y => 0x8#4 ++ regField x ++ regField y ++ 0x3#4
  | .addVxVy x y => 0x8#4 ++ regField x ++ regField y ++ 0x4#4
  | .subVxVy x y => 0x8#4 ++ regField x ++ regField y ++ 0x5#4
  | .shrVx x y => 0x8#4 ++ regField x ++ regField y ++ 0x6#4
  | .subnVxVy x y => 0x8#4 ++ regField x ++ regField y ++ 0x7#4
  | .shlVx x y => 0x8#4 ++ regField x ++ regField y ++ 0xE#4
  | .sneVxVy x y => 0x9#4 ++ regField x ++ regField y ++ 0x0#4
  | .ldINnn nnn => 0xA#4 ++ nnn
  | .jpV0Nnn nnn => 0xB#4 ++ nnn
  | .rndVxNn x nn => 0xC#4 ++ regField x ++ nn
  | .drwVxVyN x y n => 0xD#4 ++ regField x ++ regField y ++ n
  | .skpVx x => 0xE#4 ++ regField x ++ 0x9E#8
  | .sknpVx x => 0xE#4 ++ regField x ++ 0xA1#8
  | .ldVxDt x => 0xF#4 ++ regField x ++ 0x07#8
  | .ldVxK x => 0xF#4 ++ regField x ++ 0x0A#8
  | .ldDtVx x => 0xF#4 ++ regField x ++ 0x15#8
  | .ldStVx x => 0xF#4 ++ regField x ++ 0x18#8
  | .addIVx x => 0xF#4 ++ regField x ++ 0x1E#8
  | .ldFVx x => 0xF#4 ++ regField x ++ 0x29#8
  | .ldBVx x => 0xF#4 ++ regField x ++ 0x33#8
  | .ldMemVx x => 0xF#4 ++ regField x ++ 0x55#8
  | .ldVxMem x => 0xF#4 ++ regField x ++ 0x65#8

end Sys2Proof
end

