-- ==== Sys2Proof/Machine/Font.lean ====
section
/-!
DEFINITION. Sys2Proof/Machine/Font.lean: the font table (20_memory.md R72), the default parameters and what memory
holds after reset.
-/
namespace Sys2Proof.Machine

/-- The glyphs of the digits 0 to 7, five bytes each, rows from top to bottom (20_memory.md R72). -/
def fontLow : List Byte :=
  [0xF0, 0x90, 0x90, 0x90, 0xF0] ++ [0x20, 0x60, 0x20, 0x20, 0x70] ++
  [0xF0, 0x10, 0xF0, 0x80, 0xF0] ++ [0xF0, 0x10, 0xF0, 0x10, 0xF0] ++
  [0x90, 0x90, 0xF0, 0x10, 0x10] ++ [0xF0, 0x80, 0xF0, 0x10, 0xF0] ++
  [0xF0, 0x80, 0xF0, 0x90, 0xF0] ++ [0xF0, 0x10, 0x20, 0x40, 0x40]

/-- The glyphs of the digits 8 to F (20_memory.md R72). -/
def fontHigh : List Byte :=
  [0xF0, 0x90, 0xF0, 0x90, 0xF0] ++ [0xF0, 0x90, 0xF0, 0x10, 0xF0] ++
  [0xF0, 0x90, 0xF0, 0x90, 0x90] ++ [0xE0, 0x90, 0xE0, 0x90, 0xE0] ++
  [0xF0, 0x80, 0x80, 0x80, 0xF0] ++ [0xE0, 0x90, 0x90, 0x90, 0xE0] ++
  [0xF0, 0x80, 0xF0, 0x80, 0xF0] ++ [0xF0, 0x80, 0xF0, 0x80, 0x80]

/-- The default of the configuration table `FONT`: the 80 bytes of 0x000..0x04F (20_memory.md R72; log entry 8). -/
def font : List Byte := fontLow ++ fontHigh

/-- The default parameters (00_scope.md R11, 20_memory.md R72): `stall`, `strict`, `fault`, `fault` and the standard font. -/
def defaults : Config.Params where
  unknownOpcode := .stall
  decode        := .strict
  fontWrite     := .fault
  keyIndex      := .fault
  font          := Vector.ofFn fun k => font.getD k.val 0x00

/-- What an address holds after reset under the default parameters, and so what an address that memory does not list reads as:
the default font at 0x000..0x04F and 0x00 from 0x050 (20_memory.md R71, R72; 70_reset_and_hazards.md R300; log entry 7). -/
def resetByte (a : Nat) : Byte := font.getD a 0x00

end Sys2Proof.Machine
end

