-- ==== Sys2Proof/Machine/State.lean ====
section
/-!
DEFINITION. Sys2Proof/Machine/State.lean: the state of the engine (10_state.md R30 to R49), the outcome types and reset.

Every row of R49's table is a field. Four further fields are the model's own: `params` (log entry 2), `randomIn` and `draws`
(log entry 3) and `reports` (log entry 4).
-/
namespace Sys2Proof.Machine

/-- Memory: the (address, byte) pairs that differ from the reset contents, in the canonical form `Memory.wf` (log entry 7). -/
abbrev Memory := List Host.Cell

/-- The canonical form of memory: addresses strictly rising, each below 0x1000 ("addresses ≥ 4096 never written", 20_memory.md
R71), and no entry equal to what an unlisted address reads as. -/
abbrev Memory.wf (m : Memory) : Prop :=
  m.Pairwise (fun c d => c.1 < d.1) ∧ ∀ c ∈ m, c.1 < Config.memSize ∧ c.2 ≠ resetByte c.1

/-- The display: 32 rows of 64 pixels, true meaning lit (10_state.md R44). -/
abbrev Display := Vector (Vector Bool 64) 32

/-- The causes FAULT_CAUSE can hold (60_exceptions.md R261); their codes are `Cause.code`. -/
inductive Cause where
  | none
  | stackOverflow
  | stackUnderflow
  | fetchRange
  | dataRange
  | fontWrite
  | keyRange
  | unknownOpcode
  deriving DecidableEq, Repr

/-- The diagnostic event UNKNOWN_OPCODE(pc, op) (40_step_cycle.md R136, 60_exceptions.md R282). -/
structure Report where
  pc : Word
  op : Word
  deriving DecidableEq, Repr

/-- The complete state of the block (10_state.md R49), and the model's own fields after it. -/
structure State where
  /-- V0 to VF (R30). -/
  v          : Vector Byte 16
  /-- The index register I (R37). -/
  i          : Word
  /-- The program counter (R34). -/
  pc         : Word
  /-- The stack pointer, 0 to 16 (R39; log entry 10). -/
  sp         : Fin 17
  /-- STACK[0..15] (R38). -/
  stack      : Vector Word 16
  /-- The delay timer DT (R41). -/
  dt         : Byte
  /-- The sound timer ST (R42). -/
  st         : Byte
  /-- The keypad latch KEY[0..15], true meaning pressed (R43). -/
  keys       : Vector Bool 16
  /-- The display DISP[row][col] (R44). -/
  display    : Display
  /-- Memory M[0..4095] (R45). -/
  mem        : Memory
  /-- HALTED (R46). -/
  halted     : Bool
  /-- FAULT_CAUSE (R46). -/
  faultCause : Cause
  /-- FAULT_PC (R46). -/
  faultPc    : Word
  /-- FAULT_OP (R46). -/
  faultOp    : Word
  /-- FAULT_ADDR, 17 bits (R46). -/
  faultAddr  : BitVec 17
  /-- The parameters of the step (00_scope.md R11); no step writes them (log entry 2). -/
  params     : Config.Params
  /-- The random byte the host has supplied for the coming step, if it has (60_exceptions.md R282; log entry 3). -/
  randomIn   : Option Byte
  /-- How many random bytes have been drawn (42_alu.md R184; log entry 3). -/
  draws      : Nat
  /-- The diagnostic events emitted so far, the newest first (60_exceptions.md R282; log entry 4). -/
  reports    : List Report
  deriving DecidableEq, Repr

/-- The reasons a step may stop outside the machine's own fault mechanism. There is none: every fault of the spec is the sticky
halt of 60_exceptions.md R264, which is a next state (log entry 1). No constructor, so nothing raises one: safe. -/
inductive Fault where
  deriving DecidableEq, Repr

/-- The reasons the model may refuse an instruction. -/
inductive Refusal where
  /-- Raised only by an arm of `exec` whose instruction has no meaning yet, under its mnemonic: safe, since a refused
  instruction proves nothing. No arm of this model raises it. -/
  | notModelled (mnemonic : String)
  deriving DecidableEq, Repr

/-- What an instruction and a step answer. -/
abbrev Result := Host.Outcome State Fault Refusal

/-- The state after reset (10_state.md R49, 70_reset_and_hazards.md R300): pc at 0x0200, the font in place (memory with nothing
listed), every other piece of state zero or false. The model's own fields are as log entry 6 says. -/
def State.reset : State where
  v          := Vector.replicate 16 0x00
  i          := 0x0000
  pc         := 0x0200
  sp         := 0
  stack      := Vector.replicate 16 0x0000
  dt         := 0x00
  st         := 0x00
  keys       := Vector.replicate 16 false
  display    := Vector.replicate 32 (Vector.replicate 64 false)
  mem        := []
  halted     := false
  faultCause := .none
  faultPc    := 0x0000
  faultOp    := 0x0000
  faultAddr  := 0
  params     := defaults
  randomIn   := none
  draws      := 0
  reports    := []

end Sys2Proof.Machine
end

