-- ==== Sys2Proof/Machine/Ops.lean ====
section
/-!
DEFINITION. Sys2Proof/Machine/Ops.lean: the named operations over registers, pc, stack, memory and the random-byte input, and
fault entry (60_exceptions.md R264).
-/
namespace Sys2Proof.Machine

/-! ## Registers and the program counter -/

/-- `V[x]` (00_scope.md R14). -/
def State.getV (s : State) (x : Reg) : Byte := s.v.get x

/-- `V[x] <- b` (00_scope.md R14). -/
def State.setV (s : State) (x : Reg) (b : Byte) : State := { s with v := s.v.set x.val b x.isLt }

/-- `I <- w`; any 16-bit value is accepted (10_state.md R37). -/
def State.setI (s : State) (w : Word) : State := { s with i := w }

/-- `DT <- b` (10_state.md R41). -/
def State.setDt (s : State) (b : Byte) : State := { s with dt := b }

/-- `ST <- b` (10_state.md R42). -/
def State.setSt (s : State) (b : Byte) : State := { s with st := b }

/-- `DISP <- d` (10_state.md R44). -/
def State.setDisplay (s : State) (d : Display) : State := { s with display := d }

/-- `pc <- w`; the target is not checked (41_control_flow.md R158). -/
def State.setPc (s : State) (w : Word) : State := { s with pc := w }

/-- The normal increment by 2 (40_step_cycle.md R133; log entry 13). -/
def State.advance (s : State) : State := s.setPc (s.pc + 2)

/-- The 4-vs-2 increment of a skip (40_step_cycle.md R133). -/
def State.skipIf (s : State) (c : Bool) : State := s.setPc (s.pc + if c then 4 else 2)

/-! ## The call stack -/

/-- `STACK[SP] <- w; SP <- SP + 1`, for SP < 16 (41_control_flow.md R152). -/
def State.push (s : State) (w : Word) : State :=
  let k := wrap 16 s.sp.val
  { s with stack := s.stack.set k.val w k.isLt, sp := wrap 17 (s.sp.val + 1) }

/-- The entry `STACK[SP - 1]`, for SP > 0 (41_control_flow.md R150). -/
def State.top (s : State) : Word := s.stack.get (wrap 16 (s.sp.val - 1))

/-- `SP <- SP - 1`, for SP > 0; the entry is not cleared (41_control_flow.md R150). -/
def State.pop (s : State) : State := { s with sp := wrap 17 (s.sp.val - 1) }

/-! ## Memory -/

/-- The byte at an address (20_memory.md R70). Every caller has checked the range: no access at or above 0x1000 is made
(R76, 40_step_cycle.md R131). -/
def Memory.read : Memory → Nat → Byte
  | [], a => resetByte a
  | (k, b) :: m, a => if k = a then b else Memory.read m a

/-- Memory without an entry for `a`. -/
def Memory.erase (m : Memory) (a : Nat) : Memory := m.filter (fun c => c.1 ≠ a)

/-- Memory with one more entry, placed in address order. -/
def Memory.insert : Memory → Host.Cell → Memory
  | [], c => [c]
  | d :: m, c => if c.1 < d.1 then c :: d :: m else d :: Memory.insert m c

/-- Write one byte (20_memory.md R74), keeping the canonical form: the reset contents are not listed. -/
def Memory.write (m : Memory) (a : Nat) (b : Byte) : Memory :=
  if b = resetByte a then m.erase a else (m.erase a).insert (a, b)

/-- `MemWrite(a, 1, b)` of Fx33 and Fx55: under `P_FONT_WRITE = ignore` a byte below 0x050 is dropped (20_memory.md R77). -/
def State.storeByte (s : State) (a : Nat) (b : Byte) : State :=
  if a < Config.fontSize ∧ s.params.fontWrite = .ignore then s else { s with mem := s.mem.write a b }

/-- Bytes written one after another from `a` upwards (20_memory.md R74). -/
def State.storeBytes (s : State) (a : Nat) : List Byte → State
  | [] => s
  | b :: bs => (s.storeByte a b).storeBytes (a + 1) bs

/-- The bytes `M[a..a+n-1]` (00_scope.md R14). -/
def Memory.readBytes (m : Memory) (a : Nat) : Nat → List Byte
  | 0 => []
  | n + 1 => m.read a :: m.readBytes (a + 1) n

/-- The opcode at pc: `M[pc] ++ M[pc+1]`, big-endian (20_memory.md R73, 40_step_cycle.md R131). -/
def State.opcode (s : State) : Word := wordOf (s.mem.read s.pc.toNat) (s.mem.read (s.pc.toNat + 1))

/-! ## The random-byte input -/

/-- The byte `Draw()` gives in this state (00_scope.md R14): the byte the host supplied for this step, else the free value
(60_exceptions.md R278, R282; log entry 3). -/
def State.drawn (s : State) : Byte := s.randomIn.getD (Config.randomByte s.draws)

/-- The state after one draw: the supplied byte is used up and one more draw is counted (42_alu.md R184). -/
def State.afterDraw (s : State) : State := { s with randomIn := none, draws := s.draws + 1 }

/-! ## Faults -/

/-- The code of a cause (60_exceptions.md R261). -/
def Cause.code : Cause → BitVec 4
  | .none => 0
  | .stackOverflow => 1
  | .stackUnderflow => 2
  | .fetchRange => 3
  | .dataRange => 4
  | .fontWrite => 5
  | .keyRange => 6
  | .unknownOpcode => 7

/-- Fault entry (60_exceptions.md R264): `HALTED <- 1; FAULT_CAUSE <- cause; FAULT_PC <- pc; FAULT_OP <- op; FAULT_ADDR <- info`
and nothing else. There is no vector and no handler. Nothing returns from it: only reset clears it (R266), which is
`hostReset` of Sys2Proof/Machine/Transactions.lean. -/
def State.raiseFault (s : State) (cause : Cause) (op : Word) (info : Nat) : State :=
  { s with halted := true, faultCause := cause, faultPc := s.pc, faultOp := op, faultAddr := BitVec.ofNat 17 info }

/-- A fault of the instruction at pc: its opcode is the word at pc, since fetch changes nothing (40_step_cycle.md R131, R264;
log entry 5). -/
def State.raise (s : State) (cause : Cause) (info : Nat) : State := s.raiseFault cause s.opcode info

/-- Run an instruction whose checks come before its first write (60_exceptions.md R265): the first fault that holds is raised in
the state before the instruction, else `body` is the state after it. -/
def State.checked (s : State) (fault : Option (Cause × Nat)) (body : State) : Result :=
  match fault with
  | some (cause, info) => .next (s.raise cause info)
  | none => .next body

end Sys2Proof.Machine
end

