-- ==== Sys2Proof/Machine/Cycle.lean ====
section
/-!
DEFINITION. Sys2Proof/Machine/Cycle.lean: what surrounds an instruction in a step: fetch, decode, the unknown-opcode path and the
timer tick (40_step_cycle.md R130 to R139). `cycle` takes the dispatcher as an argument; Step.lean gives it `exec`.
-/
namespace Sys2Proof.Machine

/-- One countdown: minus 1 while non-zero, floor at 0 (40_step_cycle.md R134). -/
def countdown (t : Byte) : Byte := if t = 0 then 0 else t - 1

/-- The timer tick (40_step_cycle.md R134, 60_exceptions.md R270, R271). -/
def State.tick (s : State) : State := { s with dt := countdown s.dt, st := countdown s.st }

/-- A step ends with the tick unless the instruction raised a fault (40_step_cycle.md R130, 60_exceptions.md R264). -/
def completeStep : Result → Result
  | .next t => .next (if t.halted then t else t.tick)
  | .fault r => .fault r
  | .refused r => .refused r

/-- Emit the event UNKNOWN_OPCODE(pc, op) (40_step_cycle.md R136, 60_exceptions.md R267). -/
def State.report (s : State) : State := { s with reports := { pc := s.pc, op := s.opcode } :: s.reports }

/-- The unknown-opcode path, before the tick (40_step_cycle.md R136). -/
def unknownOpcode (s : State) : Result :=
  match s.params.unknownOpcode with
  | .stall => .next s.report
  | .skip => .next s.report.advance
  | .fault => .next (s.raise .unknownOpcode 0)

/-- A fetch past the end of memory: FETCH_RANGE with FAULT_OP = 0 (40_step_cycle.md R131). -/
def State.fetchFault (s : State) : State := s.raiseFault .fetchRange 0 s.pc.toNat

/-- The step transaction (40_step_cycle.md R130): nothing when halted (R139); fetch, whose range check wins over every other
cause (60_exceptions.md R263); decode; execute; tick. The meanings themselves do not look at HALTED (log entry 14). -/
def cycle (execute : Instr → State → Result) (s : State) : Result :=
  if s.halted then .next s
  else if Config.lastFetch < s.pc.toNat then .next s.fetchFault
  else
    match decodeWord s.params.decode s.opcode with
    | some i => completeStep (execute i s)
    | none => completeStep (unknownOpcode s)

/-- A state whose next step fetches: running, and with pc in the range of a fetch (log entry 11). -/
def State.ready (s : State) : State :=
  { s with halted := false, pc := if Config.lastFetch < s.pc.toNat then BitVec.ofNat 16 Config.progBase else s.pc }

/-- The word stored at pc and pc + 1, the high byte first (20_memory.md R73). -/
def State.placeWord (s : State) (op : Word) : State :=
  { s with mem := (s.mem.write s.pc.toNat (op.extractLsb' 8 8)).write (s.pc.toNat + 1) (op.extractLsb' 0 8) }

end Sys2Proof.Machine
end

