-- ==== Sys2Proof/Machine/Flags.lean ====
section
/-!
DEFINITION. Sys2Proof/Machine/Flags.lean: the flag values of 42_alu.md R170 and the order of the two writes (R172).
-/
namespace Sys2Proof.Machine

/-- A flag as the byte VF holds (42_alu.md R179). -/
def flagByte (c : Bool) : Byte := if c then 0x01 else 0x00

/-- Carry of an addition: `a + b > 255` (42_alu.md R170). -/
def carry (a b : Byte) : Bool := decide (255 < a.toNat + b.toNat)

/-- The subtraction flag of `a - b`: `a > b`, strictly (42_alu.md R170, R180). -/
def greater (a b : Byte) : Bool := decide (b.toNat < a.toNat)

/-- `a[0]`, the bit a right shift moves out (42_alu.md R181). -/
def lowBit (a : Byte) : Bool := a.getLsbD 0

/-- `a[7]`, the bit a left shift moves out (42_alu.md R183). -/
def highBit (a : Byte) : Bool := a.getLsbD 7

/-- The result is written to Vx, then the flag to VF, so that for x = F the flag stays (42_alu.md R172). -/
def State.setResult (s : State) (x : Reg) (r : Byte) (flag : Bool) : State := (s.setV x r).setV regF (flagByte flag)

end Sys2Proof.Machine
end

