-- ==== Sys2Proof/Machine/Operands.lean ====
section
/-!
DEFINITION. Sys2Proof/Machine/Operands.lean: effective addresses, key indices, display coordinates and the checks that can
fault before an instruction writes anything.
-/
namespace Sys2Proof.Machine

/-- The effective address `ea = I + k`, an unbounded natural number (20_memory.md R76). -/
def State.ea (s : State) (k : Nat) : Nat := s.i.toNat + k

/-- An access to the `n` bytes from I: DATA_RANGE when its largest effective address is 0x1000 or more (20_memory.md R76). An
access to no byte cannot fault (44_display.md R221). -/
def State.rangeFault (s : State) (n : Nat) : Option (Cause × Nat) :=
  if 0 < n ∧ Config.memSize ≤ s.ea (n - 1) then some (.dataRange, s.ea (n - 1)) else none

/-- A data write that would reach the font table: FONT_WRITE under `P_FONT_WRITE = fault` (20_memory.md R77). -/
def State.fontFault (s : State) : Option (Cause × Nat) :=
  if s.i.toNat < Config.fontSize ∧ s.params.fontWrite = .fault then some (.fontWrite, s.i.toNat) else none

/-- The checks of Fx33 and Fx55, DATA_RANGE first (43_index_memory.md R206, 60_exceptions.md R263). -/
def State.storeFault (s : State) (n : Nat) : Option (Cause × Nat) :=
  match s.rangeFault n with
  | some f => some f
  | none => s.fontFault

/-- A key index above 15: KEY_RANGE under `P_KEY_INDEX = fault` (45_timers_keys.md R246). -/
def State.keyFault (s : State) (v : Byte) : Option (Cause × Nat) :=
  if 15 < v.toNat ∧ s.params.keyIndex = .fault then some (.keyRange, v.toNat) else none

/-- The key an 8-bit value selects: the value itself up to 15, modulo 16 under `mask` (45_timers_keys.md R246). -/
def keyIndex (v : Byte) : Key := wrap 16 v.toNat

/-- `KEY[k]` (10_state.md R43). -/
def State.getKey (s : State) (k : Key) : Bool := s.keys.get k

/-- The lowest pressed key, scanning 0 to 15 in ascending order (45_timers_keys.md R243). -/
def State.lowestKey (s : State) : Option Key := ((List.range 16).map (wrap 16)).find? s.getKey

/-- `V[x] mod 64`, the column of a sprite's origin (44_display.md R221). -/
def State.originCol (s : State) (x : Reg) : Fin 64 := wrap 64 (s.getV x).toNat

/-- `V[y] mod 32`, the row of a sprite's origin (44_display.md R221). -/
def State.originRow (s : State) (y : Reg) : Fin 32 := wrap 32 (s.getV y).toNat

/-- The address of the font glyph of a value, 5 bytes a glyph, the value not masked (43_index_memory.md R202). -/
def glyphAddr (v : Byte) : Word := v.setWidth 16 * 5

/-- The hundreds, tens and units digits of an 8-bit value (43_index_memory.md R203). -/
def bcdDigits (v : Byte) : List Byte :=
  [BitVec.ofNat 8 (v.toNat / 100), BitVec.ofNat 8 (v.toNat / 10 % 10), BitVec.ofNat 8 (v.toNat % 10)]

/-- How many registers the block V0..Vx has (43_index_memory.md R204, R205). -/
def blockSize (x : Reg) : Nat := x.val + 1

/-- The values of the first `n` registers, V0 first (43_index_memory.md R204). -/
def State.blockBytes (s : State) (n : Nat) : List Byte := (List.range n).map fun k => s.getV (wrap 16 k)

/-- `for k in 0..n-1, ascending: V[k] <- M[I + k]` (43_index_memory.md R205). -/
def State.loadBlock (s : State) : Nat → State
  | 0 => s
  | n + 1 => (s.loadBlock n).setV (wrap 16 n) (s.mem.read (s.ea n))

end Sys2Proof.Machine
end

