-- ==== Sys2Proof/Machine/Alu.lean ====
section
/-!
DEFINITION. Sys2Proof/Machine/Alu.lean: register loads and arithmetic (42_alu.md R173 to R184). Operands are read before any
write (00_scope.md R15); no instruction of this file faults.
-/
namespace Sys2Proof.Machine

/-- LD Vx, nn (R173). -/
def execLdVxNn (x : Reg) (nn : Byte) (s : State) : Result := .next (s.setV x nn).advance

/-- ADD Vx, nn (R174): wrapping, VF not a flag. -/
def execAddVxNn (x : Reg) (nn : Byte) (s : State) : Result := .next (s.setV x (s.getV x + nn)).advance

/-- LD Vx, Vy (R175). -/
def execLdVxVy (x y : Reg) (s : State) : Result := .next (s.setV x (s.getV y)).advance

/-- OR Vx, Vy (R176). -/
def execOrVxVy (x y : Reg) (s : State) : Result := .next (s.setV x (s.getV x ||| s.getV y)).advance

/-- AND Vx, Vy (R177). -/
def execAndVxVy (x y : Reg) (s : State) : Result := .next (s.setV x (s.getV x &&& s.getV y)).advance

/-- XOR Vx, Vy (R178). -/
def execXorVxVy (x y : Reg) (s : State) : Result := .next (s.setV x (s.getV x ^^^ s.getV y)).advance

/-- ADD Vx, Vy (R179). -/
def execAddVxVy (x y : Reg) (s : State) : Result :=
  .next (s.setResult x (s.getV x + s.getV y) (carry (s.getV x) (s.getV y))).advance

/-- SUB Vx, Vy (R180). -/
def execSubVxVy (x y : Reg) (s : State) : Result :=
  .next (s.setResult x (s.getV x - s.getV y) (greater (s.getV x) (s.getV y))).advance

/-- SHR Vx (R181): Vx is shifted, `y` is not used (log entry 20). -/
def execShrVx (x _y : Reg) (s : State) : Result := .next (s.setResult x (s.getV x >>> 1) (lowBit (s.getV x))).advance

/-- SUBN Vx, Vy (R182). -/
def execSubnVxVy (x y : Reg) (s : State) : Result :=
  .next (s.setResult x (s.getV y - s.getV x) (greater (s.getV y) (s.getV x))).advance

/-- SHL Vx (R183): Vx is shifted, `y` is not used (log entry 20). -/
def execShlVx (x _y : Reg) (s : State) : Result := .next (s.setResult x (s.getV x <<< 1) (highBit (s.getV x))).advance

/-- RND Vx, nn (R184): one byte is drawn in every execution, also when nn = 0. -/
def execRndVxNn (x : Reg) (nn : Byte) (s : State) : Result := .next (s.afterDraw.setV x (s.drawn &&& nn)).advance

end Sys2Proof.Machine
end

