-- ==== Sys2Proof/Machine/Control.lean ====
section
/-!
DEFINITION. Sys2Proof/Machine/Control.lean: return, jumps, call and skips (41_control_flow.md R150 to R157).
-/
namespace Sys2Proof.Machine

/-- A return with SP = 0: STACK_UNDERFLOW (41_control_flow.md R150). -/
def State.returnFault (s : State) : Option (Cause × Nat) := if s.sp.val = 0 then some (.stackUnderflow, 0) else none

/-- A call with SP = 16: STACK_OVERFLOW (41_control_flow.md R152). -/
def State.callFault (s : State) : Option (Cause × Nat) :=
  if s.sp.val = Config.stackDepth then some (.stackOverflow, 0) else none

/-- RET (R150): pop the call's own address and go 2 past it. -/
def execRet (s : State) : Result := s.checked s.returnFault (s.pop.setPc (s.top + 2))

/-- JP nnn (R151). -/
def execJpNnn (nnn : Addr) (s : State) : Result := .next (s.setPc (nnn.setWidth 16))

/-- CALL nnn (R152): push the call's own address. -/
def execCallNnn (nnn : Addr) (s : State) : Result := s.checked s.callFault ((s.push s.pc).setPc (nnn.setWidth 16))

/-- SE Vx, nn (R153). -/
def execSeVxNn (x : Reg) (nn : Byte) (s : State) : Result := .next (s.skipIf (s.getV x == nn))

/-- SNE Vx, nn (R154). -/
def execSneVxNn (x : Reg) (nn : Byte) (s : State) : Result := .next (s.skipIf (s.getV x != nn))

/-- SE Vx, Vy (R155). -/
def execSeVxVy (x y : Reg) (s : State) : Result := .next (s.skipIf (s.getV x == s.getV y))

/-- SNE Vx, Vy (R156). -/
def execSneVxVy (x y : Reg) (s : State) : Result := .next (s.skipIf (s.getV x != s.getV y))

/-- JP V0, nnn (R157): the register added is always V0. -/
def execJpV0Nnn (nnn : Addr) (s : State) : Result := .next (s.setPc (nnn.setWidth 16 + (s.getV 0).setWidth 16))

end Sys2Proof.Machine
end

