-- ==== Sys2Proof/Machine/Draw.lean ====
section
/-!
DEFINITION. Sys2Proof/Machine/Draw.lean: the display instructions (44_display.md R220 to R223).

A drawing in progress is a `Canvas`: the display and whether a set sprite bit has met a lit pixel so far.
-/
namespace Sys2Proof.Machine

/-- `DISP[row][col]` (10_state.md R44). -/
def Display.pixel (d : Display) (row : Fin 32) (col : Fin 64) : Bool := (d.get row).get col

/-- `DISP[row][col] <- not DISP[row][col]` (44_display.md R221). -/
def Display.flip (d : Display) (row : Fin 32) (col : Fin 64) : Display :=
  d.set row.val ((d.get row).set col.val (!d.pixel row col) col.isLt) row.isLt

/-- The display with every pixel false (44_display.md R220). -/
def Display.clear : Display := Vector.replicate 32 (Vector.replicate 64 false)

/-- The display being drawn on and the collision so far (44_display.md R223). -/
abbrev Canvas := Display × Bool

/-- XOR one set sprite bit onto a pixel: a lit pixel is a collision, and a collision once seen stays (44_display.md R223). -/
def Canvas.plot (p : Canvas) (row : Fin 32) (col : Fin 64) : Canvas :=
  (Display.flip p.1 row col, p.2 || Display.pixel p.1 row col)

/-- One sprite row, the most significant bit first; each target column wraps on its own (44_display.md R221, R222). -/
def Canvas.drawRow (p : Canvas) (x0 : Fin 64) (row : Fin 32) (b : Byte) : Canvas :=
  (List.range 8).foldl (fun q c => if b.getMsbD c then Canvas.plot q row (wrap 64 (x0.val + c)) else q) p

/-- The sprite's rows from row `r` on, top to bottom; each target row wraps on its own (44_display.md R221, R222). -/
def Canvas.drawRows (p : Canvas) (x0 : Fin 64) (y0 : Fin 32) (r : Nat) : List Byte → Canvas
  | [] => p
  | b :: bs => Canvas.drawRows (Canvas.drawRow p x0 (wrap 32 (y0.val + r)) b) x0 y0 (r + 1) bs

/-- The display and the collision flag after drawing the `n` rows at I with origin (Vx, Vy) (44_display.md R221). -/
def State.sprited (s : State) (x y : Reg) (n : Nat) : Canvas :=
  Canvas.drawRows (s.display, false) (s.originCol x) (s.originRow y) 0 (s.mem.readBytes (s.ea 0) n)

/-- CLS (R220): VF is not written. -/
def execCls (s : State) : Result := .next (s.setDisplay Display.clear).advance

/-- DRW Vx, Vy, n (R221): the origin is read before VF is reset; n = 0 draws nothing and leaves VF = 0. -/
def execDrwVxVyN (x y : Reg) (n : BitVec 4) (s : State) : Result :=
  s.checked (s.rangeFault n.toNat)
    ((s.setDisplay (s.sprited x y n.toNat).1).setV regF (flagByte (s.sprited x y n.toNat).2)).advance

end Sys2Proof.Machine
end

