-- ==== Sys2Proof/Machine/IndexMemory.lean ====
section
/-!
DEFINITION. Sys2Proof/Machine/IndexMemory.lean: the index register and memory transfers (43_index_memory.md R200 to R205).
-/
namespace Sys2Proof.Machine

/-- LD I, nnn (R200). -/
def execLdINnn (nnn : Addr) (s : State) : Result := .next (s.setI (nnn.setWidth 16)).advance

/-- ADD I, Vx (R201): wrapping at 16 bits, VF not written. -/
def execAddIVx (x : Reg) (s : State) : Result := .next (s.setI (s.i + (s.getV x).setWidth 16)).advance

/-- LD F, Vx (R202). -/
def execLdFVx (x : Reg) (s : State) : Result := .next (s.setI (glyphAddr (s.getV x))).advance

/-- LD B, Vx (R203): three digits at I, I+1, I+2; I is not changed. -/
def execLdBVx (x : Reg) (s : State) : Result :=
  s.checked (s.storeFault 3) (s.storeBytes (s.ea 0) (bcdDigits (s.getV x))).advance

/-- LD [I], Vx (R204): V0..Vx to I..I+x; I is not changed. -/
def execLdMemVx (x : Reg) (s : State) : Result :=
  s.checked (s.storeFault (blockSize x)) (s.storeBytes (s.ea 0) (s.blockBytes (blockSize x))).advance

/-- LD Vx, [I] (R205): V0..Vx from I..I+x; I is not changed. -/
def execLdVxMem (x : Reg) (s : State) : Result :=
  s.checked (s.rangeFault (blockSize x)) (s.loadBlock (blockSize x)).advance

end Sys2Proof.Machine
end

