-- ==== Sys2Proof/Machine/TimersKeys.lean ====
section
/-!
DEFINITION. Sys2Proof/Machine/TimersKeys.lean: the keypad and timer instructions (45_timers_keys.md R240 to R246).
-/
namespace Sys2Proof.Machine

/-- SKP Vx (R240). -/
def execSkpVx (x : Reg) (s : State) : Result :=
  s.checked (s.keyFault (s.getV x)) (s.skipIf (s.getKey (keyIndex (s.getV x))))

/-- SKNP Vx (R241). -/
def execSknpVx (x : Reg) (s : State) : Result :=
  s.checked (s.keyFault (s.getV x)) (s.skipIf (!s.getKey (keyIndex (s.getV x))))

/-- LD Vx, DT (R242): DT before this step's tick. -/
def execLdVxDt (x : Reg) (s : State) : Result := .next (s.setV x s.dt).advance

/-- LD Vx, K (R243): the lowest pressed key, or no effect at all (pc unchanged) when none is pressed. -/
def execLdVxK (x : Reg) (s : State) : Result :=
  match s.lowestKey with
  | some k => .next (s.setV x (BitVec.ofNat 8 k.val)).advance
  | none => .next s

/-- LD DT, Vx (R244). -/
def execLdDtVx (x : Reg) (s : State) : Result := .next (s.setDt (s.getV x)).advance

/-- LD ST, Vx (R245). -/
def execLdStVx (x : Reg) (s : State) : Result := .next (s.setSt (s.getV x)).advance

end Sys2Proof.Machine
end

