-- ==== Sys2Proof/Machine/Step.lean ====
section
/-!
DEFINITION. Sys2Proof/Machine/Step.lean: one step, and a state that is about to run a given word.
-/
namespace Sys2Proof.Machine

/-- The step transaction (40_step_cycle.md R130). -/
def step (s : State) : Host.Outcome State Fault Refusal := cycle exec s

/-- `s` with the word `w` of an opcode-table row placed where its next step fetches (log entry 11). -/
def State.withFetchWord (s : State) (nbits w : Nat) : State := s.ready.placeWord (BitVec.ofNat 16 (w % 2 ^ nbits))

end Sys2Proof.Machine
end

