-- ==== Sys2Proof/Machine/Transactions.lean ====
section
/-!
DEFINITION. Sys2Proof/Machine/Transactions.lean: the block's host interface (60_exceptions.md R282): reset, load_program, step with
its random byte, set_key, read_framebuffer and read_status, each one atomic transaction between steps (20_memory.md R83; log entry 15).
-/
namespace Sys2Proof.Machine

/-- The bytes of an image placed from `a` on; a byte that would land at or past 0x1000 is dropped (70_reset_and_hazards.md
R302). -/
def Memory.load (m : Memory) (a : Nat) : List Byte → Memory
  | [] => m
  | b :: bs => if a < Config.memSize then (m.write a b).load (a + 1) bs else m

/-- `reset` (70_reset_and_hazards.md R300, R301), also while halted: every reset value, with the machine's own table FONT in place
(20_memory.md R72). It erases any program. The parameters, the count of draws and the events already emitted are not state of the
block and stay (log entry 12). -/
def hostReset (s : State) : State :=
  { State.reset with
    mem     := State.reset.mem.load 0x000 s.params.font.toList
    params  := s.params
    draws   := s.draws
    reports := s.reports }

/-- `load_program` of an image (70_reset_and_hazards.md R302): nothing but memory changes. -/
def hostLoad (image : List Byte) (s : State) : State := { s with mem := s.mem.load Config.progBase image }

/-- `set_key` of a key 0 to 15 (60_exceptions.md R275), also while halted. -/
def hostSetKey (k : Key) (pressed : Bool) (s : State) : State := { s with keys := s.keys.set k.val pressed k.isLt }

/-- The colour of a logical pixel: white packed as 0xFFFFFF, black as 0 (60_exceptions.md R277). -/
def pixelColour (lit : Bool) : BitVec 32 := if lit then 0x00FFFFFF else 0x00000000

/-- The framebuffer of upscale factor `scale` (`P_SCALE`), row-major, each logical pixel a scale by scale block
(60_exceptions.md R277; log entry 18). -/
def framebuffer (scale : Nat) (s : State) : List (BitVec 32) :=
  (List.range (Config.dispH * scale)).flatMap fun py =>
    (List.range (Config.dispW * scale)).map fun px =>
      pixelColour (s.display.pixel (wrap 32 (py / scale)) (wrap 64 (px / scale)))

/-- What `read_status` returns (60_exceptions.md R282). -/
structure Status where
  halted     : Bool
  faultCause : BitVec 4
  faultPc    : Word
  faultOp    : Word
  faultAddr  : BitVec 17
  deriving DecidableEq, Repr

/-- `read_status` (60_exceptions.md R282). -/
def status (s : State) : Status :=
  { halted := s.halted, faultCause := s.faultCause.code, faultPc := s.faultPc, faultOp := s.faultOp, faultAddr := s.faultAddr }

/-- The operations of the host interface (60_exceptions.md R282). An image is absent when its file could not be read
(70_reset_and_hazards.md R303). -/
inductive Transaction where
  | reset
  | loadProgram (image : Option (List Byte))
  | step (random : Byte)
  | setKey (k : Nat) (pressed : Bool)
  | readFramebuffer (scale : Nat)
  | readStatus
  deriving DecidableEq, Repr

/-- The outputs of the host interface (60_exceptions.md R282). -/
inductive Response where
  | done
  | ok
  | loadError
  | rejected
  | stepped (event : Option Report)
  | buffer (words : List (BitVec 32))
  | status (r : Status)
  deriving DecidableEq, Repr

/-- The event a step emitted, if it emitted one (40_step_cycle.md R136). -/
def emitted (s t : State) : Option Report := if t.reports.length = s.reports.length then none else t.reports.head?

/-- The step transaction with the random byte its host supplies, which serves this step alone (60_exceptions.md R278, R282). -/
def hostStep (random : Byte) (s : State) : Result :=
  match Sys2Proof.Machine.step { s with randomIn := some random } with
  | .next t => .next { t with randomIn := none }
  | .fault r => .fault r
  | .refused r => .refused r

/-- One transaction on the host interface (60_exceptions.md R282). -/
def transact (s : State) : Transaction → Host.Outcome (State × Response) Fault Refusal
  | .reset => .next (hostReset s, .done)
  | .loadProgram (some image) => .next (hostLoad image s, .ok)
  | .loadProgram none => .next (s, .loadError)
  | .step random =>
    match hostStep random s with
    | .next t => .next (t, .stepped (emitted s t))
    | .fault r => .fault r
    | .refused r => .refused r
  | .setKey k pressed => if h : k < 16 then .next (hostSetKey ⟨k, h⟩ pressed s, .ok) else .next (s, .rejected)
  | .readFramebuffer scale => .next (s, .buffer (framebuffer scale s))
  | .readStatus => .next (s, .status (status s))

end Sys2Proof.Machine
end

