-- ==== Sys2Proof/Safety.lean ====
section
/-!
DEFINITION. Sys2Proof/Safety.lean: the terms claims are stated in: the parts of the state and what a frame leaves alone, the
invariant of the machine, a safe run, and the sprite picture of 44_display.md as a closed formula.
-/
namespace Sys2Proof.Machine

/-- Every separately observable part of the state (10_state.md R49, and the model's own fields). -/
inductive Part where
  | v (k : Reg)
  | i
  | pc
  | sp
  | stack (k : Fin 16)
  | dt
  | st
  | key (k : Key)
  | pixel (row : Fin 32) (col : Fin 64)
  | memory (a : Nat)
  | halted
  | faultCause
  | faultPc
  | faultOp
  | faultAddr
  | params
  | randomIn
  | draws
  | reports
  deriving DecidableEq, Repr

/-- A part has the same value in two states. -/
def Part.Same (s t : State) : Part → Prop
  | .v k => t.getV k = s.getV k
  | .i => t.i = s.i
  | .pc => t.pc = s.pc
  | .sp => t.sp = s.sp
  | .stack k => t.stack.get k = s.stack.get k
  | .dt => t.dt = s.dt
  | .st => t.st = s.st
  | .key k => t.getKey k = s.getKey k
  | .pixel row col => t.display.pixel row col = s.display.pixel row col
  | .memory a => t.mem.read a = s.mem.read a
  | .halted => t.halted = s.halted
  | .faultCause => t.faultCause = s.faultCause
  | .faultPc => t.faultPc = s.faultPc
  | .faultOp => t.faultOp = s.faultOp
  | .faultAddr => t.faultAddr = s.faultAddr
  | .params => t.params = s.params
  | .randomIn => t.randomIn = s.randomIn
  | .draws => t.draws = s.draws
  | .reports => t.reports = s.reports

/-- Every part outside `changed` is the same in `t` as in `s`. -/
def Frame (changed : Part → Prop) (s t : State) : Prop := ∀ p, ¬ changed p → p.Same s t

/-- The five registers of the fault status (10_state.md R46). -/
def Part.faultStatus (p : Part) : Prop :=
  p = .halted ∨ p = .faultCause ∨ p = .faultPc ∨ p = .faultOp ∨ p = .faultAddr

/-- What every reachable state satisfies: memory is canonical; pc is at most 0x10FE (10_state.md R36); every stack entry is a
legally fetched address (R49); the block is halted exactly when a cause is recorded, and the other fault registers are 0 while
it runs (R46, 60_exceptions.md R266); a fetch fault records no opcode (R264). -/
structure Inv (s : State) : Prop where
  memory   : s.mem.wf
  pc       : s.pc.toNat ≤ 0x10FE
  stack    : ∀ k, (s.stack.get k).toNat ≤ 0x0FFE
  cause    : s.halted = true ↔ s.faultCause ≠ .none
  running  : s.halted = false → s.faultPc = 0 ∧ s.faultOp = 0 ∧ s.faultAddr = 0
  fetchOp  : s.faultCause = .fetchRange → s.faultOp = 0

/-- A safe run: after `n` steps from `s` the block has not faulted (60_exceptions.md R266). -/
def SafeRun (n : Nat) (s : State) : Prop := ∃ t : State, Sys2Proof.core.run n s = .next t ∧ t.halted = false

/-- The step fetches an instruction: the block runs, pc is in range, and the word at pc decodes (40_step_cycle.md R130). -/
def Fetches (s : State) (ins : Instr) : Prop :=
  s.halted = false ∧ s.pc.toNat ≤ 0x0FFE ∧
    decodeWord s.params.decode (s.mem.read s.pc.toNat ++ s.mem.read (s.pc.toNat + 1)) = some ins

/-- `s` after fault entry with the cause, opcode and address given, written out from 60_exceptions.md R264. -/
def Faulted (s : State) (cause : Cause) (op : Word) (addr : Nat) : State :=
  { s with halted := true, faultCause := cause, faultPc := s.pc, faultOp := op, faultAddr := BitVec.ofNat 17 addr }

/-- The word at pc, high byte first (20_memory.md R73). -/
def wordAtPc (s : State) : Word := s.mem.read s.pc.toNat ++ s.mem.read (s.pc.toNat + 1)

/-- The sprite of Dxyn covers a pixel: the pixel lies r rows below and c columns right of the origin (Vx mod 64, Vy mod 32), both
counted round the display's edges, with r < n and c < 8, and bit 7 - c of the byte at I + r is set (44_display.md R221, R222). -/
def spriteBit (s : State) (x y : Reg) (n : Nat) (row : Fin 32) (col : Fin 64) : Bool :=
  let r := (row.val + 32 - (s.getV y).toNat % 32) % 32
  let c := (col.val + 64 - (s.getV x).toNat % 64) % 64
  decide (r < n) && decide (c < 8) && (s.mem.read (s.i.toNat + r)).getLsbD (7 - c)

/-- A data write of Fx33 or Fx55 to address `a` lands: every address does, but for the font table under `P_FONT_WRITE = ignore`
(20_memory.md R77). -/
def WriteLands (s : State) (a : Nat) : Prop := ¬ (a ≤ 0x04F ∧ s.params.fontWrite = .ignore)

/-- A data write of the `n` bytes from I meets neither check of 20_memory.md R76 and R77. -/
def StoreAllowed (s : State) (n : Nat) : Prop :=
  s.i.toNat + n ≤ 0x1000 ∧ ¬ (s.i.toNat ≤ 0x04F ∧ s.params.fontWrite = .fault)

/-- The parts an instruction may write when it does not fault: pc, and what its rule names (10_state.md R31, R32, R37 to R39, R41 to
R44; 42_alu.md R184; 43_index_memory.md R203 to R205). Stored addresses are the effective addresses I + k of 20_memory.md R76. -/
def Writes (ins : Instr) (s : State) (p : Part) : Prop :=
  p = .pc ∨
  match ins with
  | .cls => ∃ row col, p = .pixel row col
  | .ret => p = .sp
  | .jpNnn _ => False
  | .callNnn _ => p = .sp ∨ ∃ k : Fin 16, k.val = s.sp.val ∧ p = .stack k
  | .seVxNn _ _ => False
  | .sneVxNn _ _ => False
  | .seVxVy _ _ => False
  | .ldVxNn x _ => p = .v x
  | .addVxNn x _ => p = .v x
  | .ldVxVy x _ => p = .v x
  | .orVxVy x _ => p = .v x
  | .andVxVy x _ => p = .v x
  | .xorVxVy x _ => p = .v x
  | .addVxVy x _ => p = .v x ∨ p = .v regF
  | .subVxVy x _ => p = .v x ∨ p = .v regF
  | .shrVx x _ => p = .v x ∨ p = .v regF
  | .subnVxVy x _ => p = .v x ∨ p = .v regF
  | .shlVx x _ => p = .v x ∨ p = .v regF
  | .sneVxVy _ _ => False
  | .ldINnn _ => p = .i
  | .jpV0Nnn _ => False
  | .rndVxNn x _ => p = .v x ∨ p = .randomIn ∨ p = .draws
  | .drwVxVyN x y n => p = .v regF ∨ ∃ row col, p = .pixel row col ∧ spriteBit s x y n.toNat row col = true
  | .skpVx _ => False
  | .sknpVx _ => False
  | .ldVxDt x => p = .v x
  | .ldVxK x => p = .v x
  | .ldDtVx _ => p = .dt
  | .ldStVx _ => p = .st
  | .addIVx _ => p = .i
  | .ldFVx _ => p = .i
  | .ldBVx _ => ∃ k, k < 3 ∧ p = .memory (s.i.toNat + k) ∧ WriteLands s (s.i.toNat + k)
  | .ldMemVx x => ∃ k, k ≤ x.val ∧ p = .memory (s.i.toNat + k) ∧ WriteLands s (s.i.toNat + k)
  | .ldVxMem x => ∃ k : Reg, k ≤ x ∧ p = .v k

/-- How many bytes at I an instruction reads or writes (20_memory.md R74). -/
def accessSize : Instr → Nat
  | .drwVxVyN _ _ n => n.toNat
  | .ldBVx _ => 3
  | .ldMemVx x => x.val + 1
  | .ldVxMem x => x.val + 1
  | _ => 0

end Sys2Proof.Machine
end

