-- ==== Sys2Proof/Certificates/Slice0/Obligations.lean ====
section
/-!
DEFINITION. Sys2Proof/Certificates/Slice0/Obligations.lean: the statements about the machine, one definition each. A frame
(`Frame changed s t`) says that every part of the state outside `changed` is the same after as before, memory byte by byte.
-/

open Sys2Proof Sys2Proof.Machine
open Sys2Proof.Config (DecodeMode)

/-! ## Encoding and decoding -/

/-- One word of each row of 30_encoding.md R105, written out from its pattern. 28 of the 34 patterns are general knowledge, decision D2, log entry 17 (PRESUMED); strict against loose (0x5121, 0x01E0) is decision D3. -/
def Obligations.WordsOfTheSpecDecode : Prop :=
  decodeWord .strict 0x00E0#16 = some .cls ∧
  decodeWord .strict 0x00EE#16 = some .ret ∧
  decodeWord .strict 0x1ABC#16 = some (.jpNnn 0xABC) ∧
  decodeWord .strict 0x2400#16 = some (.callNnn 0x400) ∧
  decodeWord .strict 0x3342#16 = some (.seVxNn 3 0x42) ∧
  decodeWord .strict 0x4342#16 = some (.sneVxNn 3 0x42) ∧
  decodeWord .strict 0x5120#16 = some (.seVxVy 1 2) ∧
  decodeWord .strict 0x6A9C#16 = some (.ldVxNn 0xA 0x9C) ∧
  decodeWord .strict 0x7F01#16 = some (.addVxNn 0xF 0x01) ∧
  decodeWord .strict 0x83F0#16 = some (.ldVxVy 3 0xF) ∧
  decodeWord .strict 0x8011#16 = some (.orVxVy 0 1) ∧
  decodeWord .strict 0x8012#16 = some (.andVxVy 0 1) ∧
  decodeWord .strict 0x8013#16 = some (.xorVxVy 0 1) ∧
  decodeWord .strict 0x8014#16 = some (.addVxVy 0 1) ∧
  decodeWord .strict 0x8015#16 = some (.subVxVy 0 1) ∧
  decodeWord .strict 0x8016#16 = some (.shrVx 0 1) ∧
  decodeWord .strict 0x8017#16 = some (.subnVxVy 0 1) ∧
  decodeWord .strict 0x801E#16 = some (.shlVx 0 1) ∧
  decodeWord .strict 0x9120#16 = some (.sneVxVy 1 2) ∧
  decodeWord .strict 0xA2F0#16 = some (.ldINnn 0x2F0) ∧
  decodeWord .strict 0xB300#16 = some (.jpV0Nnn 0x300) ∧
  decodeWord .strict 0xC30F#16 = some (.rndVxNn 3 0x0F) ∧
  decodeWord .strict 0xD015#16 = some (.drwVxVyN 0 1 5) ∧
  decodeWord .strict 0xE49E#16 = some (.skpVx 4) ∧
  decodeWord .strict 0xE4A1#16 = some (.sknpVx 4) ∧
  decodeWord .strict 0xF207#16 = some (.ldVxDt 2) ∧
  decodeWord .strict 0xF20A#16 = some (.ldVxK 2) ∧
  decodeWord .strict 0xF215#16 = some (.ldDtVx 2) ∧
  decodeWord .strict 0xF218#16 = some (.ldStVx 2) ∧
  decodeWord .strict 0xF21E#16 = some (.addIVx 2) ∧
  decodeWord .strict 0xF229#16 = some (.ldFVx 2) ∧
  decodeWord .strict 0xFA33#16 = some (.ldBVx 0xA) ∧
  decodeWord .strict 0xF255#16 = some (.ldMemVx 2) ∧
  decodeWord .strict 0xF265#16 = some (.ldVxMem 2) ∧
  decodeWord .strict 0x5121#16 = none ∧ decodeWord .loose 0x5121#16 = some (.seVxVy 1 2) ∧
  decodeWord .strict 0x01E0#16 = none ∧ decodeWord .loose 0x01E0#16 = some .cls ∧
  decodeWord .strict 0x8128#16 = none ∧ decodeWord .strict 0xF0FF#16 = none

/-- No operand bit is lost between an instruction and its two bytes (30_encoding.md R100 to R105). Every term of `Instr` is well formed, so no premise is needed. -/
def Obligations.DecodeEncodeAgree : Prop :=
  ∀ (mode : DecodeMode) (ins : Instr) (rest : List Byte),
    decode mode (wordBytes (encode ins) ++ rest) = .ok (ins, rest)

/-- Strict decoding is exact: each word has at most one reading and each reading one word (30_encoding.md R105 to R110; strict is decision D3, the patterns are decision D2, log entry 17). -/
def Obligations.StrictDecodingIsExact : Prop :=
  ∀ (w : Word) (ins : Instr), decodeWord .strict w = some ins → encode ins = w

/-- Decode is total and its UNKNOWN class is the list of 30_encoding.md R111 (an inference the spec marks as derived; loose decode is decision D3, the selectors are decision D2, log entry 17). -/
def Obligations.UnknownWordsAreThoseListed : Prop :=
  ∀ w : Word,
    let f := w.toNat / 0x1000
    let nn := w.toNat % 0x100
    let n := w.toNat % 0x10
    let unknown8EF := (f = 0x8 ∧ n ∈ [0x8, 0x9, 0xA, 0xB, 0xC, 0xD, 0xF]) ∨ (f = 0xE ∧ nn ∉ [0x9E, 0xA1]) ∨
      (f = 0xF ∧ nn ∉ [0x07, 0x0A, 0x15, 0x18, 0x1E, 0x29, 0x33, 0x55, 0x65])
    (decodeWord .strict w = none ↔
      (f = 0x0 ∧ w ≠ 0x00E0 ∧ w ≠ 0x00EE) ∨ (f = 0x5 ∧ n ≠ 0) ∨ (f = 0x9 ∧ n ≠ 0) ∨ unknown8EF) ∧
    (decodeWord .loose w = none ↔ (f = 0x0 ∧ nn ∉ [0xE0, 0xEE]) ∨ unknown8EF)

/-! ## The step -/

/-- The step around an instruction (40_step_cycle.md R130 to R134), fetch big-endian (20_memory.md R73). That a faulting step does not tick is decision D12. -/
def Obligations.StepRunsTheDecodedInstruction : Prop :=
  ∀ (s : State) (ins : Instr) (t : State), Fetches s ins → exec ins s = .next t →
    step s = .next (if t.halted then t
      else { t with dt := if t.dt = 0 then 0 else t.dt - 1, st := if t.st = 0 then 0 else t.st - 1 })

/-- Nothing stops the model: every fault of the spec is a next state (60_exceptions.md R264; log entry 1, the model's reading). -/
def Obligations.StepAlwaysAnswersNext : Prop :=
  ∀ s : State, ∃ t, step s = .next t

/-- 40_step_cycle.md R139, which is decision D12. -/
def Obligations.HaltedStepChangesNothing : Prop :=
  ∀ s : State, s.halted = true → step s = .next s

/-- 40_step_cycle.md R131, decision D6; the form of the fault is decision D12. -/
def Obligations.FetchPastTheEndFaults : Prop :=
  ∀ s : State, s.halted = false → 0x0FFE < s.pc.toNat →
    step s = .next { s with halted := true, faultCause := .fetchRange, faultPc := s.pc, faultOp := 0,
                            faultAddr := BitVec.ofNat 17 s.pc.toNat } ∧
    Cause.fetchRange.code = 3

/-- 40_step_cycle.md R136: the three values of `P_UNKNOWN_OPCODE` (decisions D4, D5). -/
def Obligations.UnknownOpcodeFollowsItsPolicy : Prop :=
  ∀ s : State, s.halted = false → s.pc.toNat ≤ 0x0FFE → decodeWord s.params.decode (wordAtPc s) = none →
    (s.params.unknownOpcode = .stall →
      step s = .next { s with reports := { pc := s.pc, op := wordAtPc s } :: s.reports,
                              dt := if s.dt = 0 then 0 else s.dt - 1, st := if s.st = 0 then 0 else s.st - 1 }) ∧
    (s.params.unknownOpcode = .skip →
      step s = .next { s with pc := s.pc + 2, reports := { pc := s.pc, op := wordAtPc s } :: s.reports,
                              dt := if s.dt = 0 then 0 else s.dt - 1, st := if s.st = 0 then 0 else s.st - 1 }) ∧
    (s.params.unknownOpcode = .fault → step s = .next (Faulted s .unknownOpcode (wordAtPc s) 0)) ∧
    Cause.unknownOpcode.code = 7

/-- 40_step_cycle.md R134 and 60_exceptions.md R270, R271, over every step; subtraction of natural numbers has its floor at 0. That the timers also tick on the unknown-opcode path is decision D5 (90_conflicts.md C3), that a faulting step does not tick is decision D12 (log entry 19). -/
def Obligations.TimersTickOnceAStep : Prop :=
  ∀ s t : State, s.halted = false → step s = .next t → t.halted = false →
    ((∀ x, ¬ Fetches s (.ldDtVx x)) → t.dt.toNat = s.dt.toNat - 1) ∧
    (∀ x, Fetches s (.ldDtVx x) → t.dt.toNat = (s.getV x).toNat - 1) ∧
    ((∀ x, ¬ Fetches s (.ldStVx x)) → t.st.toNat = s.st.toNat - 1) ∧
    (∀ x, Fetches s (.ldStVx x) → t.st.toNat = (s.getV x).toNat - 1) ∧
    (∀ x, Fetches s (.ldVxDt x) → t.getV x = s.dt)

/-! ## Faults -/

/-- 60_exceptions.md R264 and R265: faults are precise (decision D12; R265 is marked derived). -/
def Obligations.FaultedStepIsPrecise : Prop :=
  ∀ s t : State, s.halted = false → step s = .next t → t.halted = true →
    t.faultCause ≠ .none ∧
    t = { s with halted := true, faultCause := t.faultCause, faultPc := s.pc,
                 faultOp := if t.faultCause = .fetchRange then 0 else wordAtPc s, faultAddr := t.faultAddr }

/-- The table of 60_exceptions.md R261 read from the fault side, and R262's list (an inference the spec marks as derived). -/
def Obligations.EveryFaultHasItsCondition : Prop :=
  ∀ (s t : State) (ins : Instr), s.halted = false → exec ins s = .next t → t.halted = true →
    match t.faultCause with
    | .stackOverflow => (∃ nnn, ins = .callNnn nnn) ∧ s.sp.val = 16 ∧ t.faultAddr.toNat = 0
    | .stackUnderflow => ins = .ret ∧ s.sp.val = 0 ∧ t.faultAddr.toNat = 0
    | .dataRange => 0 < accessSize ins ∧ 0x1000 ≤ s.i.toNat + accessSize ins - 1 ∧
        t.faultAddr.toNat = s.i.toNat + accessSize ins - 1
    | .fontWrite => (∃ x, ins = .ldBVx x ∨ ins = .ldMemVx x) ∧ s.params.fontWrite = .fault ∧ s.i.toNat ≤ 0x04F ∧
        t.faultAddr.toNat = s.i.toNat
    | .keyRange => ∃ x, (ins = .skpVx x ∨ ins = .sknpVx x) ∧ s.params.keyIndex = .fault ∧ 15 < (s.getV x).toNat ∧
        t.faultAddr.toNat = (s.getV x).toNat
    | .none => False
    | .fetchRange => False
    | .unknownOpcode => False

/-- The fault clauses of 41_control_flow.md R150 and R152 (decision D11). -/
def Obligations.StackFaultsAreRaised : Prop :=
  (∀ (s : State) (nnn : Addr), s.sp.val = 16 →
    exec (.callNnn nnn) s = .next (Faulted s .stackOverflow (wordAtPc s) 0)) ∧
  (∀ s : State, s.sp.val = 0 → exec .ret s = .next (Faulted s .stackUnderflow (wordAtPc s) 0)) ∧
  Cause.stackOverflow.code = 1 ∧ Cause.stackUnderflow.code = 2

/-- 20_memory.md R76 (decisions D8, D9). -/
def Obligations.AccessPastTheEndFaults : Prop :=
  ∀ (s : State) (x y : Reg) (n : BitVec 4),
    (0x1000 ≤ s.i.toNat + 2 → exec (.ldBVx x) s = .next (Faulted s .dataRange (wordAtPc s) (s.i.toNat + 2))) ∧
    (0x1000 ≤ s.i.toNat + x.val →
      exec (.ldMemVx x) s = .next (Faulted s .dataRange (wordAtPc s) (s.i.toNat + x.val)) ∧
      exec (.ldVxMem x) s = .next (Faulted s .dataRange (wordAtPc s) (s.i.toNat + x.val))) ∧
    (0 < n.toNat → 0x1000 ≤ s.i.toNat + n.toNat - 1 →
      exec (.drwVxVyN x y n) s = .next (Faulted s .dataRange (wordAtPc s) (s.i.toNat + n.toNat - 1))) ∧
    Cause.dataRange.code = 4

/-- 20_memory.md R77 under `fault` (decision D10). -/
def Obligations.FontWriteFaultsUnderItsPolicy : Prop :=
  ∀ (s : State) (x : Reg), s.i.toNat ≤ 0x04F → s.params.fontWrite = .fault →
    exec (.ldBVx x) s = .next (Faulted s .fontWrite (wordAtPc s) s.i.toNat) ∧
    exec (.ldMemVx x) s = .next (Faulted s .fontWrite (wordAtPc s) s.i.toNat) ∧
    Cause.fontWrite.code = 5

/-- 45_timers_keys.md R246 under `fault` (decision D18). -/
def Obligations.KeyIndexFaultsUnderItsPolicy : Prop :=
  ∀ (s : State) (x : Reg), 15 < (s.getV x).toNat → s.params.keyIndex = .fault →
    exec (.skpVx x) s = .next (Faulted s .keyRange (wordAtPc s) (s.getV x).toNat) ∧
    exec (.sknpVx x) s = .next (Faulted s .keyRange (wordAtPc s) (s.getV x).toNat) ∧
    Cause.keyRange.code = 6

/-- 60_exceptions.md R266: the fault status is sticky (decision D12). -/
def Obligations.FaultsAreSticky : Prop :=
  ∀ (n m : Nat) (s : State), SafeRun (n + m) s → SafeRun n s

/-! ## The invariant and the frame of every instruction -/

/-- The invariant of Sys2Proof/Safety.lean at reset. Its memory clause is the canonical form, log entry 7, the model's choice; the zeros of stack, memory and fault status are decisions D19 and D12. -/
def Obligations.InvariantAtReset : Prop :=
  Inv State.reset

/-- Whole-machine bounds: 10_state.md R36 and R49, 20_memory.md R71, 60_exceptions.md R264 (R36 is marked derived; the fault status is decision D12; the canonical form is log entry 7). The host's transactions are EveryTransactionKeepsTheInvariant. -/
def Obligations.InvariantKeptByEveryStep : Prop :=
  ∀ s t : State, Inv s → step s = .next t → Inv t

/-- The frame of all 34 instructions; `Writes` is the list of who writes what in 10_state.md (R32 is marked derived). That VF is not written by 8xy1 to 8xy3 and Fx1E, nor I by Fx55 and Fx65, is decisions D14, D16 and D15; Dxyn with n = 0 is D17, a font byte not written is D10, the fault status D12. -/
def Obligations.EveryInstructionKeepsItsFrame : Prop :=
  ∀ (s t : State) (ins : Instr), exec ins s = .next t → Frame Part.faultStatus s t ∨ Frame (Writes ins s) s t

/-- 20_memory.md R71, "an immutable, engine-seeded font table", kept by the policies of R77 (decision D10). -/
def Obligations.FontTableIsImmutable : Prop :=
  ∀ (s t : State) (a : Nat), s.params.fontWrite ≠ .write → a ≤ 0x04F → step s = .next t → t.mem.read a = s.mem.read a

/-- 10_state.md R43, "No instruction writes it"; the parameters stand in State by log entry 2, the model's choice. -/
def Obligations.KeypadAndParametersAreNotWritten : Prop :=
  ∀ s t : State, step s = .next t → t.keys = s.keys ∧ t.params = s.params

/-- The canonical form of memory (log entry 7, the model's choice) makes one memory one list. -/
def Obligations.CanonicalMemoriesAreEqual : Prop :=
  ∀ m₁ m₂ : Memory, m₁.wf → m₂.wf → (∀ a, m₁.read a = m₂.read a) → m₁ = m₂

/-! ## Control flow, registers, index register and timers -/

/-- 44_display.md R220, with its frame. -/
def Obligations.ClearDisplayClearsEveryPixel : Prop :=
  encode .cls = 0x00E0 ∧
  ∀ s : State, ∃ t, exec .cls s = .next t ∧ (∀ row col, t.display.pixel row col = false) ∧ t.pc = s.pc + 2 ∧
    Frame (fun p => p = .pc ∨ ∃ row col, p = .pixel row col) s t

/-- 41_control_flow.md R151, with its frame. -/
def Obligations.JumpSetsPc : Prop :=
  ∀ (s : State) (nnn : Addr), (encode (.jpNnn nnn)).toNat = 0x1000 + nnn.toNat ∧
    ∃ t, exec (.jpNnn nnn) s = .next t ∧ t.pc.toNat = nnn.toNat ∧ Frame (fun p => p = .pc) s t

/-- 41_control_flow.md R157, with its frame; that the jump itself does not fault is decision D6. -/
def Obligations.JumpWithOffsetAddsV0 : Prop :=
  ∀ (s : State) (nnn : Addr), (encode (.jpV0Nnn nnn)).toNat = 0xB000 + nnn.toNat ∧
    ∃ t, exec (.jpV0Nnn nnn) s = .next t ∧ t.pc.toNat = nnn.toNat + (s.getV 0).toNat ∧ Frame (fun p => p = .pc) s t

/-- 41_control_flow.md R152 where SP is below 16 (k is SP as a stack index); with SP = 16 it faults, decision D11. The pattern 2nnn is decision D2, log entry 17. -/
def Obligations.CallPushesItsOwnAddress : Prop :=
  ∀ (s : State) (nnn : Addr) (k : Fin 16), k.val = s.sp.val →
    (encode (.callNnn nnn)).toNat = 0x2000 + nnn.toNat ∧
    ∃ t, exec (.callNnn nnn) s = .next t ∧ t.stack.get k = s.pc ∧ t.sp.val = s.sp.val + 1 ∧ t.pc.toNat = nnn.toNat ∧
      Frame (fun p => p = .pc ∨ p = .sp ∨ p = .stack k) s t

/-- 41_control_flow.md R150 where SP is above 0 (k is SP - 1); with SP = 0 it faults, decision D11. The pattern 00EE is decision D2, log entry 17. -/
def Obligations.ReturnPopsAndAddsTwo : Prop :=
  ∀ (s : State) (k : Fin 16), k.val + 1 = s.sp.val →
    encode .ret = 0x00EE ∧
    ∃ t, exec .ret s = .next t ∧ t.sp.val = k.val ∧ t.pc = s.stack.get k + 2 ∧
      Frame (fun p => p = .pc ∨ p = .sp) s t

/-- 10_state.md R40. -/
def Obligations.ReturnGoesPastTheCall : Prop :=
  ∀ (s : State) (nnn : Addr) (w : Word), s.sp.val < 16 →
    ∃ t u, exec (.callNnn nnn) s = .next t ∧ (∀ k : Fin 16, k.val = s.sp.val → t.stack.get k = s.pc) ∧
      exec .ret (t.setPc w) = .next u ∧ u.pc = s.pc + 2 ∧ u.sp = s.sp

/-- 41_control_flow.md R153 and R154, with their frame; the patterns 3xnn and 4xnn are general knowledge, decision D2, log entry 17 (PRESUMED). -/
def Obligations.SkipOnImmediate : Prop :=
  ∀ (s : State) (x : Reg) (nn : Byte),
    (encode (.seVxNn x nn)).toNat = 0x3000 + x.val * 0x100 + nn.toNat ∧
    (encode (.sneVxNn x nn)).toNat = 0x4000 + x.val * 0x100 + nn.toNat ∧
    (∃ t, exec (.seVxNn x nn) s = .next t ∧ t.pc = (if s.getV x = nn then s.pc + 4 else s.pc + 2) ∧
      Frame (fun p => p = .pc) s t) ∧
    (∃ t, exec (.sneVxNn x nn) s = .next t ∧ t.pc = (if s.getV x = nn then s.pc + 2 else s.pc + 4) ∧
      Frame (fun p => p = .pc) s t)

/-- 41_control_flow.md R155 and R156, with their frame. -/
def Obligations.SkipOnRegisters : Prop :=
  ∀ (s : State) (x y : Reg),
    (encode (.seVxVy x y)).toNat = 0x5000 + x.val * 0x100 + y.val * 0x10 ∧
    (encode (.sneVxVy x y)).toNat = 0x9000 + x.val * 0x100 + y.val * 0x10 ∧
    (∃ t, exec (.seVxVy x y) s = .next t ∧ t.pc = (if s.getV x = s.getV y then s.pc + 4 else s.pc + 2) ∧
      Frame (fun p => p = .pc) s t) ∧
    (∃ t, exec (.sneVxVy x y) s = .next t ∧ t.pc = (if s.getV x = s.getV y then s.pc + 2 else s.pc + 4) ∧
      Frame (fun p => p = .pc) s t)

/-- 42_alu.md R173, R174 and R175, with their frame; the patterns 6xnn and 7xnn and the selector of 8xy0 are general knowledge, decision D2, log entry 17 (PRESUMED). -/
def Obligations.LoadsAndImmediateAdd : Prop :=
  ∀ (s : State) (x y : Reg) (nn : Byte),
    (encode (.ldVxNn x nn)).toNat = 0x6000 + x.val * 0x100 + nn.toNat ∧
    (encode (.addVxNn x nn)).toNat = 0x7000 + x.val * 0x100 + nn.toNat ∧
    (encode (.ldVxVy x y)).toNat = 0x8000 + x.val * 0x100 + y.val * 0x10 ∧
    (∃ t, exec (.ldVxNn x nn) s = .next t ∧ t.getV x = nn ∧ t.pc = s.pc + 2 ∧
      Frame (fun p => p = .pc ∨ p = .v x) s t) ∧
    (∃ t, exec (.addVxNn x nn) s = .next t ∧ (t.getV x).toNat = ((s.getV x).toNat + nn.toNat) % 256 ∧ t.pc = s.pc + 2 ∧
      Frame (fun p => p = .pc ∨ p = .v x) s t) ∧
    (∃ t, exec (.ldVxVy x y) s = .next t ∧ t.getV x = s.getV y ∧ t.pc = s.pc + 2 ∧
      Frame (fun p => p = .pc ∨ p = .v x) s t)

/-- 42_alu.md R176 to R178; that VF is not written is decision D14, the selectors are general knowledge, decision D2, log entry 17 (PRESUMED). -/
def Obligations.BitwiseOperationsLeaveTheFlag : Prop :=
  ∀ (s : State) (x y : Reg),
    (encode (.orVxVy x y)).toNat = 0x8001 + x.val * 0x100 + y.val * 0x10 ∧
    (encode (.andVxVy x y)).toNat = 0x8002 + x.val * 0x100 + y.val * 0x10 ∧
    (encode (.xorVxVy x y)).toNat = 0x8003 + x.val * 0x100 + y.val * 0x10 ∧
    (∃ t, exec (.orVxVy x y) s = .next t ∧
      (∀ j : Fin 8, (t.getV x)[j] = ((s.getV x)[j] || (s.getV y)[j])) ∧ t.pc = s.pc + 2 ∧
      Frame (fun p => p = .pc ∨ p = .v x) s t) ∧
    (∃ t, exec (.andVxVy x y) s = .next t ∧
      (∀ j : Fin 8, (t.getV x)[j] = ((s.getV x)[j] && (s.getV y)[j])) ∧ t.pc = s.pc + 2 ∧
      Frame (fun p => p = .pc ∨ p = .v x) s t) ∧
    (∃ t, exec (.xorVxVy x y) s = .next t ∧
      (∀ j : Fin 8, (t.getV x)[j] = ((s.getV x)[j] != (s.getV y)[j])) ∧ t.pc = s.pc + 2 ∧
      Frame (fun p => p = .pc ∨ p = .v x) s t)

/-- 42_alu.md R170 with R179 to R183: the results and flags for the destinations in which the two do not meet; x = F is FlagWinsWhenTheDestinationIsVF. That VF as an operand is read before the flag is written is R172, decision D13; the selectors are general knowledge, decision D2, log entry 17 (PRESUMED). -/
def Obligations.ArithmeticSetsResultAndFlag : Prop :=
  ∀ (s : State) (x y : Reg),
    let a := (s.getV x).toNat
    let b := (s.getV y).toNat
    (encode (.addVxVy x y)).toNat = 0x8004 + x.val * 0x100 + y.val * 0x10 ∧
    (encode (.subVxVy x y)).toNat = 0x8005 + x.val * 0x100 + y.val * 0x10 ∧
    (encode (.shrVx x y)).toNat = 0x8006 + x.val * 0x100 + y.val * 0x10 ∧
    (encode (.subnVxVy x y)).toNat = 0x8007 + x.val * 0x100 + y.val * 0x10 ∧
    (encode (.shlVx x y)).toNat = 0x800E + x.val * 0x100 + y.val * 0x10 ∧
    (x ≠ 0xF →
      (∃ t, exec (.addVxVy x y) s = .next t ∧ (t.getV x).toNat = (a + b) % 256 ∧
        (t.getV 0xF).toNat = (if 255 < a + b then 1 else 0) ∧ t.pc = s.pc + 2 ∧
        Frame (fun p => p = .pc ∨ p = .v x ∨ p = .v 0xF) s t) ∧
      (∃ t, exec (.subVxVy x y) s = .next t ∧ (t.getV x).toNat = (a + 256 - b) % 256 ∧
        (t.getV 0xF).toNat = (if b < a then 1 else 0) ∧ t.pc = s.pc + 2 ∧
        Frame (fun p => p = .pc ∨ p = .v x ∨ p = .v 0xF) s t) ∧
      (∃ t, exec (.subnVxVy x y) s = .next t ∧ (t.getV x).toNat = (b + 256 - a) % 256 ∧
        (t.getV 0xF).toNat = (if a < b then 1 else 0) ∧ t.pc = s.pc + 2 ∧
        Frame (fun p => p = .pc ∨ p = .v x ∨ p = .v 0xF) s t) ∧
      (∃ t, exec (.shrVx x y) s = .next t ∧ (t.getV x).toNat = a / 2 ∧ (t.getV 0xF).toNat = a % 2 ∧ t.pc = s.pc + 2 ∧
        Frame (fun p => p = .pc ∨ p = .v x ∨ p = .v 0xF) s t) ∧
      (∃ t, exec (.shlVx x y) s = .next t ∧ (t.getV x).toNat = 2 * a % 256 ∧ (t.getV 0xF).toNat = a / 128 ∧
        t.pc = s.pc + 2 ∧ Frame (fun p => p = .pc ∨ p = .v x ∨ p = .v 0xF) s t))

/-- 42_alu.md R172, decision D13: Vx is written, then VF. -/
def Obligations.FlagWinsWhenTheDestinationIsVF : Prop :=
  ∀ (s : State) (y : Reg),
    let a := (s.getV 0xF).toNat
    let b := (s.getV y).toNat
    (∃ t, exec (.addVxVy 0xF y) s = .next t ∧ (t.getV 0xF).toNat = (if 255 < a + b then 1 else 0) ∧ t.pc = s.pc + 2 ∧
      Frame (fun p => p = .pc ∨ p = .v 0xF) s t) ∧
    (∃ t, exec (.subVxVy 0xF y) s = .next t ∧ (t.getV 0xF).toNat = (if b < a then 1 else 0) ∧ t.pc = s.pc + 2 ∧
      Frame (fun p => p = .pc ∨ p = .v 0xF) s t) ∧
    (∃ t, exec (.subnVxVy 0xF y) s = .next t ∧ (t.getV 0xF).toNat = (if a < b then 1 else 0) ∧ t.pc = s.pc + 2 ∧
      Frame (fun p => p = .pc ∨ p = .v 0xF) s t) ∧
    (∃ t, exec (.shrVx 0xF y) s = .next t ∧ (t.getV 0xF).toNat = a % 2 ∧ t.pc = s.pc + 2 ∧
      Frame (fun p => p = .pc ∨ p = .v 0xF) s t) ∧
    (∃ t, exec (.shlVx 0xF y) s = .next t ∧ (t.getV 0xF).toNat = a / 128 ∧ t.pc = s.pc + 2 ∧
      Frame (fun p => p = .pc ∨ p = .v 0xF) s t)

/-- 42_alu.md R184: the draw is under no law (decision D22); how the model supplies it is log entry 3, the model's choice. The pattern Cxnn is decision D2, log entry 17. -/
def Obligations.RandomByteIsMasked : Prop :=
  ∀ (s : State) (x : Reg) (nn : Byte), (encode (.rndVxNn x nn)).toNat = 0xC000 + x.val * 0x100 + nn.toNat ∧
    ∃ t, exec (.rndVxNn x nn) s = .next t ∧
    t.getV x = ((match s.randomIn with | some r => r | none => Config.randomByte s.draws) &&& nn) ∧
    t.draws = s.draws + 1 ∧ t.randomIn = none ∧ t.pc = s.pc + 2 ∧
    Frame (fun p => p = .pc ∨ p = .v x ∨ p = .draws ∨ p = .randomIn) s t

/-- 43_index_memory.md R200 and R202, with their frame; the pattern Annn and the selector of Fx29 are general knowledge, decision D2, log entry 17 (PRESUMED). -/
def Obligations.SetIndexRegister : Prop :=
  ∀ (s : State) (x : Reg) (nnn : Addr),
    (encode (.ldINnn nnn)).toNat = 0xA000 + nnn.toNat ∧ (encode (.ldFVx x)).toNat = 0xF029 + x.val * 0x100 ∧
    (∃ t, exec (.ldINnn nnn) s = .next t ∧ t.i.toNat = nnn.toNat ∧ t.pc = s.pc + 2 ∧
      Frame (fun p => p = .pc ∨ p = .i) s t) ∧
    (∃ t, exec (.ldFVx x) s = .next t ∧ t.i.toNat = (s.getV x).toNat * 5 ∧ t.pc = s.pc + 2 ∧
      Frame (fun p => p = .pc ∨ p = .i) s t)

/-- 43_index_memory.md R201; that VF is not written is decision D16, the selector is general knowledge, decision D2, log entry 17 (PRESUMED). -/
def Obligations.AddToIndexWraps : Prop :=
  ∀ (s : State) (x : Reg), (encode (.addIVx x)).toNat = 0xF01E + x.val * 0x100 ∧ ∃ t, exec (.addIVx x) s = .next t ∧
    t.i.toNat = (s.i.toNat + (s.getV x).toNat) % 65536 ∧ t.pc = s.pc + 2 ∧
    Frame (fun p => p = .pc ∨ p = .i) s t

/-- 45_timers_keys.md R242, R244 and R245, alone and inside a step; DT and ST after the step are 40_step_cycle.md R134, an inference R244 marks as derived. The selectors are general knowledge, decision D2, log entry 17 (PRESUMED). -/
def Obligations.TimerInstructionsMoveTheTimers : Prop :=
  ∀ (s : State) (x : Reg),
    (encode (.ldVxDt x)).toNat = 0xF007 + x.val * 0x100 ∧ (encode (.ldDtVx x)).toNat = 0xF015 + x.val * 0x100 ∧
    (encode (.ldStVx x)).toNat = 0xF018 + x.val * 0x100 ∧
    (∃ t, exec (.ldVxDt x) s = .next t ∧ t.getV x = s.dt ∧ t.pc = s.pc + 2 ∧
      Frame (fun p => p = .pc ∨ p = .v x) s t) ∧
    (∃ t, exec (.ldDtVx x) s = .next t ∧ t.dt = s.getV x ∧ t.pc = s.pc + 2 ∧
      Frame (fun p => p = .pc ∨ p = .dt) s t) ∧
    (∃ t, exec (.ldStVx x) s = .next t ∧ t.st = s.getV x ∧ t.pc = s.pc + 2 ∧
      Frame (fun p => p = .pc ∨ p = .st) s t) ∧
    (Fetches s (.ldVxDt x) → ∃ t, step s = .next t ∧ t.getV x = s.dt ∧ t.dt.toNat = s.dt.toNat - 1) ∧
    (Fetches s (.ldDtVx x) → ∃ t, step s = .next t ∧ t.dt.toNat = (s.getV x).toNat - 1) ∧
    (Fetches s (.ldStVx x) → ∃ t, step s = .next t ∧ t.st.toNat = (s.getV x).toNat - 1)

/-- 45_timers_keys.md R240, R241; k is the key R246 selects (decision D18); the selectors are general knowledge, decision D2, log entry 17 (PRESUMED). -/
def Obligations.SkipOnKey : Prop :=
  ∀ (s : State) (x : Reg),
    (encode (.skpVx x)).toNat = 0xE09E + x.val * 0x100 ∧ (encode (.sknpVx x)).toNat = 0xE0A1 + x.val * 0x100 ∧
    ∀ k : Key, k.val = (s.getV x).toNat % 16 → (s.getV x).toNat ≤ 15 ∨ s.params.keyIndex = .mask →
      (∃ t, exec (.skpVx x) s = .next t ∧ t.pc = (if s.getKey k = true then s.pc + 4 else s.pc + 2) ∧
        Frame (fun p => p = .pc) s t) ∧
      (∃ t, exec (.sknpVx x) s = .next t ∧ t.pc = (if s.getKey k = true then s.pc + 2 else s.pc + 4) ∧
        Frame (fun p => p = .pc) s t)

/-- 45_timers_keys.md R243; level-sensitive by decision D32; the selector is decision D2, log entry 17. -/
def Obligations.WaitForKeyTakesTheLowestKey : Prop :=
  (∀ x : Reg, (encode (.ldVxK x)).toNat = 0xF00A + x.val * 0x100) ∧
  (∀ (s : State) (x : Reg), (∀ k, s.getKey k = false) → exec (.ldVxK x) s = .next s) ∧
  (∀ (s : State) (x : Reg) (k : Key), s.getKey k = true → (∀ j : Key, j < k → s.getKey j = false) →
    ∃ t, exec (.ldVxK x) s = .next t ∧ (t.getV x).toNat = k.val ∧ t.pc = s.pc + 2 ∧
      Frame (fun p => p = .pc ∨ p = .v x) s t)

/-! ## Memory and display -/

/-- 43_index_memory.md R203 with the effective addresses of 20_memory.md R76 and the three font policies of R77 (decisions D8, D10); the selector is general knowledge, decision D2, log entry 17 (PRESUMED). -/
def Obligations.DigitsAreStored : Prop :=
  ∀ (s : State) (x : Reg), (encode (.ldBVx x)).toNat = 0xF033 + x.val * 0x100 ∧ (StoreAllowed s 3 →
    ∃ t, exec (.ldBVx x) s = .next t ∧
    (WriteLands s s.i.toNat → (t.mem.read s.i.toNat).toNat = (s.getV x).toNat / 100) ∧
    (WriteLands s (s.i.toNat + 1) → (t.mem.read (s.i.toNat + 1)).toNat = (s.getV x).toNat / 10 % 10) ∧
    (WriteLands s (s.i.toNat + 2) → (t.mem.read (s.i.toNat + 2)).toNat = (s.getV x).toNat % 10) ∧
    t.pc = s.pc + 2 ∧
    Frame (fun p => p = .pc ∨ ∃ k, k < 3 ∧ p = .memory (s.i.toNat + k) ∧ WriteLands s (s.i.toNat + k)) s t)

/-- 43_index_memory.md R204 with the effective addresses of 20_memory.md R76; I unchanged is decision D15, the selector decision D2, log entry 17 (PRESUMED). -/
def Obligations.RegisterBlockIsStored : Prop :=
  ∀ (s : State) (x : Reg), (encode (.ldMemVx x)).toNat = 0xF055 + x.val * 0x100 ∧ (StoreAllowed s (x.val + 1) →
    ∃ t, exec (.ldMemVx x) s = .next t ∧
    (∀ k : Reg, k ≤ x → WriteLands s (s.i.toNat + k.val) → t.mem.read (s.i.toNat + k.val) = s.getV k) ∧
    t.pc = s.pc + 2 ∧
    Frame (fun p => p = .pc ∨ ∃ k, k ≤ x.val ∧ p = .memory (s.i.toNat + k) ∧ WriteLands s (s.i.toNat + k)) s t)

/-- 43_index_memory.md R205; I unchanged is decision D15, the selector decision D2, log entry 17 (PRESUMED). -/
def Obligations.RegisterBlockIsLoaded : Prop :=
  ∀ (s : State) (x : Reg), (encode (.ldVxMem x)).toNat = 0xF065 + x.val * 0x100 ∧ (s.i.toNat + x.val < 0x1000 →
    ∃ t, exec (.ldVxMem x) s = .next t ∧
    (∀ k : Reg, k ≤ x → t.getV k = s.mem.read (s.i.toNat + k.val)) ∧ t.pc = s.pc + 2 ∧
    Frame (fun p => p = .pc ∨ ∃ k : Reg, k ≤ x ∧ p = .v k) s t)

/-- 20_memory.md R82: fetch is coherent with data writes (decision D31). -/
def Obligations.StoredBytesAreFetched : Prop :=
  ∀ (s : State) (x k l : Reg), Fetches s (.ldMemVx x) → StoreAllowed s (x.val + 1) → 0x050 ≤ s.i.toNat →
    l.val = k.val + 1 → l ≤ x → s.i.toNat + k.val = s.pc.toNat + 2 →
    ∃ t, step s = .next t ∧ t.pc = s.pc + 2 ∧ wordAtPc t = s.getV k ++ s.getV l

/-- 44_display.md R221 to R223: the drawing loops against the closed picture `spriteBit`; x or y = F and n = 0 are decision D17. -/
def Obligations.DrawXorsTheSprite : Prop :=
  ∀ (s : State) (x y : Reg) (n : BitVec 4),
    (encode (.drwVxVyN x y n)).toNat = 0xD000 + x.val * 0x100 + y.val * 0x10 + n.toNat ∧
    (n = 0 ∨ s.i.toNat + n.toNat ≤ 0x1000 → ∃ t, exec (.drwVxVyN x y n) s = .next t ∧
      (∀ row col, t.display.pixel row col = (s.display.pixel row col != spriteBit s x y n.toNat row col)) ∧
      (t.getV 0xF = 1 ↔ ∃ row col, spriteBit s x y n.toNat row col = true ∧ s.display.pixel row col = true) ∧
      (t.getV 0xF = 0 ↔ ¬ ∃ row col, spriteBit s x y n.toNat row col = true ∧ s.display.pixel row col = true) ∧
      t.pc = s.pc + 2 ∧
      Frame (fun p => p = .pc ∨ p = .v 0xF ∨ ∃ row col, p = .pixel row col) s t)

/-- 95_test_vectors.md W3, a property the source states of its own engine for n from 1 to 15. That n = 0 draws nothing and leaves VF = 0, and that x or y = F is read before VF is reset, is decision D17; an access past the end is left out because it faults, decision D8. -/
def Obligations.FirstDrawOnClearDisplayDoesNotCollide : Prop :=
  ∀ (s : State) (x y : Reg) (n : BitVec 4), n = 0 ∨ s.i.toNat + n.toNat ≤ 0x1000 →
    ∃ t u, exec .cls s = .next t ∧ exec (.drwVxVyN x y n) t = .next u ∧ u.getV 0xF = 0

/-- 95_test_vectors.md W4, the XOR round trip, with its caveat that x = F or y = F moves the origin. W4's second half is stated as 44_display.md R223 gives it (log entry 16): a bit whose pixel was lit before the first draw meets an unlit pixel in the second. That n = 0 draws nothing and leaves VF = 0 is decision D17. -/
def Obligations.DrawingTwiceRestoresTheDisplay : Prop :=
  ∀ (s : State) (x y : Reg) (n : BitVec 4), x ≠ 0xF → y ≠ 0xF → n = 0 ∨ s.i.toNat + n.toNat ≤ 0x1000 →
    ∃ t u, exec (.drwVxVyN x y n) s = .next t ∧ exec (.drwVxVyN x y n) t = .next u ∧
      u.display = s.display ∧
      (u.getV 0xF = 1 ↔ ∃ row col, spriteBit s x y n.toNat row col = true ∧ s.display.pixel row col = false)

/-! ## The host interface -/

/-- 70_reset_and_hazards.md R300 with the table of 10_state.md R49 (decision D19) and the font of 20_memory.md R72 (decision D23, log entry 8); what the model keeps over a reset is log entry 12, its own choice. -/
def Obligations.ResetGivesTheResetState : Prop :=
  ∀ s : State, ∃ t, transact s .reset = .next (t, .done) ∧ t.pc = 0x0200 ∧
    (∀ k : Fin 80, t.mem.read k.val = s.params.font.get k) ∧
    (∀ a, 0x050 ≤ a → t.mem.read a = 0) ∧ (∀ k, t.getV k = 0) ∧ t.i = 0 ∧ t.sp = 0 ∧ (∀ k, t.stack.get k = 0) ∧
    t.dt = 0 ∧ t.st = 0 ∧ (∀ k, t.getKey k = false) ∧ (∀ row col, t.display.pixel row col = false) ∧
    t.halted = false ∧ t.faultCause = .none ∧ t.faultPc = 0 ∧ t.faultOp = 0 ∧ t.faultAddr = 0 ∧ t.params = s.params ∧
    defaults.font.toList =
      [0xF0, 0x90, 0x90, 0x90, 0xF0, 0x20, 0x60, 0x20, 0x20, 0x70, 0xF0, 0x10, 0xF0, 0x80, 0xF0, 0xF0, 0x10, 0xF0, 0x10, 0xF0] ++
      [0x90, 0x90, 0xF0, 0x10, 0x10, 0xF0, 0x80, 0xF0, 0x10, 0xF0, 0xF0, 0x80, 0xF0, 0x90, 0xF0, 0xF0, 0x10, 0x20, 0x40, 0x40] ++
      [0xF0, 0x90, 0xF0, 0x90, 0xF0, 0xF0, 0x90, 0xF0, 0x10, 0xF0, 0xF0, 0x90, 0xF0, 0x90, 0x90, 0xE0, 0x90, 0xE0, 0x90, 0xE0] ++
      [0xF0, 0x80, 0x80, 0x80, 0xF0, 0xE0, 0x90, 0x90, 0x90, 0xE0, 0xF0, 0x80, 0xF0, 0x80, 0xF0, 0xF0, 0x80, 0xF0, 0x80, 0x80]

/-- 70_reset_and_hazards.md R302 (decision D21). -/
def Obligations.LoadPlacesTheImage : Prop :=
  ∀ (s : State) (image : List Byte), ∃ t, transact s (.loadProgram (some image)) = .next (t, .ok) ∧
    (∀ j b, image[j]? = some b → 0x200 + j ≤ 0xFFF → t.mem.read (0x200 + j) = b) ∧
    Frame (fun p => ∃ j, j < image.length ∧ 0x200 + j ≤ 0xFFF ∧ p = .memory (0x200 + j)) s t

/-- 70_reset_and_hazards.md R303. -/
def Obligations.FailedLoadChangesNothing : Prop :=
  ∀ s : State, transact s (.loadProgram none) = .next (s, .loadError)

/-- 70_reset_and_hazards.md R304 and 95_test_vectors.md W6. -/
def Obligations.LoadedProgramIsFetchedFirst : Prop :=
  ∀ (s : State) (b₀ b₁ : Byte) (rest : List Byte), ∃ t u,
    transact s .reset = .next (t, .done) ∧ transact t (.loadProgram (some (b₀ :: b₁ :: rest))) = .next (u, .ok) ∧
    u.pc = 0x200 ∧ wordAtPc u = b₀ ++ b₁

/-- 60_exceptions.md R275; the rejection is decision D26. -/
def Obligations.SetKeySetsOneKey : Prop :=
  ∀ (s : State) (pressed : Bool),
    (∀ k : Key, ∃ t, transact s (.setKey k.val pressed) = .next (t, .ok) ∧ t.getKey k = pressed ∧
      Frame (fun p => p = .key k) s t) ∧
    (∀ k : Nat, 15 < k → transact s (.setKey k pressed) = .next (s, .rejected))

/-- 60_exceptions.md R277; bits 31 to 24 are decision D24. -/
def Obligations.FramebufferShowsThePixels : Prop :=
  ∀ (s : State) (S : Nat), 0 < S → ∃ words, transact s (.readFramebuffer S) = .next (s, .buffer words) ∧
    words.length = (64 * S) * (32 * S) ∧
    ∀ (py px : Nat) (row : Fin 32) (col : Fin 64), px < 64 * S → py < 32 * S → row.val = py / S → col.val = px / S →
      words[py * (64 * S) + px]? = some (if s.display.pixel row col = true then 0x00FFFFFF else 0x00000000)

/-- 60_exceptions.md R278 and R282: "one random byte, used only if the instruction is Cxnn" (decision D22). -/
def Obligations.RandomByteServesOnlyRnd : Prop :=
  (∀ (s : State) (x : Reg) (nn r : Byte), Fetches s (.rndVxNn x nn) →
    ∃ t, hostStep r s = .next t ∧ t.getV x = r &&& nn ∧ t.pc = s.pc + 2 ∧ t.draws = s.draws + 1) ∧
  (∀ (s : State) (r r' : Byte), (∀ x nn, ¬ Fetches s (.rndVxNn x nn)) → hostStep r s = hostStep r' s)

/-- 60_exceptions.md R282's output of step, with R267 and 40_step_cycle.md R136. -/
def Obligations.StepReportsOnlyUnknownWords : Prop :=
  ∀ (s : State) (r : Byte), ∃ t,
    transact s (.step r) = .next (t, .stepped (
      if s.halted = false ∧ s.pc.toNat ≤ 0x0FFE ∧ decodeWord s.params.decode (wordAtPc s) = none ∧
          s.params.unknownOpcode ≠ .fault
      then some { pc := s.pc, op := wordAtPc s } else none))

/-- 60_exceptions.md R282 and the codes of R261 (decision D12, D28). -/
def Obligations.StatusShowsTheFault : Prop :=
  (∀ s : State, transact s .readStatus = .next (s, .status
    { halted := s.halted, faultCause := s.faultCause.code, faultPc := s.faultPc, faultOp := s.faultOp,
      faultAddr := s.faultAddr })) ∧
  [Cause.none, .stackOverflow, .stackUnderflow, .fetchRange, .dataRange, .fontWrite, .keyRange, .unknownOpcode].map Cause.code =
    [0, 1, 2, 3, 4, 5, 6, 7]

/-- InvariantKeptByEveryStep over the whole host interface of 60_exceptions.md R282: load_program drops what lies past 0xFFF (70_reset_and_hazards.md R302, decision D21), reset clears the fault status (R300, decisions D12, D19), and no operation but a step writes pc or the stack. The canonical form of memory is log entry 7. -/
def Obligations.EveryTransactionKeepsTheInvariant : Prop :=
  ∀ (s : State) (a : Transaction), ∃ t r, transact s a = .next (t, r) ∧ (Inv s → Inv t)
end

