-- ==== Sys2Proof/Laws/State.lean ====
section
/-!
SUPPORT. Sys2Proof/Laws/State.lean: what each named update of the state does to each field, one lemma a field, and to a register,
so that no later proof unfolds a record update.
-/
namespace Sys2Proof.Machine

variable (s : State)

/-! ## setV -/

@[simp] theorem setV_i (x : Reg) (b : Byte) : (s.setV x b).i = s.i := rfl
@[simp] theorem setV_pc (x : Reg) (b : Byte) : (s.setV x b).pc = s.pc := rfl
@[simp] theorem setV_sp (x : Reg) (b : Byte) : (s.setV x b).sp = s.sp := rfl
@[simp] theorem setV_stack (x : Reg) (b : Byte) : (s.setV x b).stack = s.stack := rfl
@[simp] theorem setV_dt (x : Reg) (b : Byte) : (s.setV x b).dt = s.dt := rfl
@[simp] theorem setV_st (x : Reg) (b : Byte) : (s.setV x b).st = s.st := rfl
@[simp] theorem setV_keys (x : Reg) (b : Byte) : (s.setV x b).keys = s.keys := rfl
@[simp] theorem setV_display (x : Reg) (b : Byte) : (s.setV x b).display = s.display := rfl
@[simp] theorem setV_mem (x : Reg) (b : Byte) : (s.setV x b).mem = s.mem := rfl
@[simp] theorem setV_halted (x : Reg) (b : Byte) : (s.setV x b).halted = s.halted := rfl
@[simp] theorem setV_faultCause (x : Reg) (b : Byte) : (s.setV x b).faultCause = s.faultCause := rfl
@[simp] theorem setV_faultPc (x : Reg) (b : Byte) : (s.setV x b).faultPc = s.faultPc := rfl
@[simp] theorem setV_faultOp (x : Reg) (b : Byte) : (s.setV x b).faultOp = s.faultOp := rfl
@[simp] theorem setV_faultAddr (x : Reg) (b : Byte) : (s.setV x b).faultAddr = s.faultAddr := rfl
@[simp] theorem setV_params (x : Reg) (b : Byte) : (s.setV x b).params = s.params := rfl
@[simp] theorem setV_randomIn (x : Reg) (b : Byte) : (s.setV x b).randomIn = s.randomIn := rfl
@[simp] theorem setV_draws (x : Reg) (b : Byte) : (s.setV x b).draws = s.draws := rfl
@[simp] theorem setV_reports (x : Reg) (b : Byte) : (s.setV x b).reports = s.reports := rfl

/-! ## setI -/

@[simp] theorem setI_v (w : Word) : (s.setI w).v = s.v := rfl
@[simp] theorem setI_i (w : Word) : (s.setI w).i = w := rfl
@[simp] theorem setI_pc (w : Word) : (s.setI w).pc = s.pc := rfl
@[simp] theorem setI_sp (w : Word) : (s.setI w).sp = s.sp := rfl
@[simp] theorem setI_stack (w : Word) : (s.setI w).stack = s.stack := rfl
@[simp] theorem setI_dt (w : Word) : (s.setI w).dt = s.dt := rfl
@[simp] theorem setI_st (w : Word) : (s.setI w).st = s.st := rfl
@[simp] theorem setI_keys (w : Word) : (s.setI w).keys = s.keys := rfl
@[simp] theorem setI_display (w : Word) : (s.setI w).display = s.display := rfl
@[simp] theorem setI_mem (w : Word) : (s.setI w).mem = s.mem := rfl
@[simp] theorem setI_halted (w : Word) : (s.setI w).halted = s.halted := rfl
@[simp] theorem setI_faultCause (w : Word) : (s.setI w).faultCause = s.faultCause := rfl
@[simp] theorem setI_faultPc (w : Word) : (s.setI w).faultPc = s.faultPc := rfl
@[simp] theorem setI_faultOp (w : Word) : (s.setI w).faultOp = s.faultOp := rfl
@[simp] theorem setI_faultAddr (w : Word) : (s.setI w).faultAddr = s.faultAddr := rfl
@[simp] theorem setI_params (w : Word) : (s.setI w).params = s.params := rfl
@[simp] theorem setI_randomIn (w : Word) : (s.setI w).randomIn = s.randomIn := rfl
@[simp] theorem setI_draws (w : Word) : (s.setI w).draws = s.draws := rfl
@[simp] theorem setI_reports (w : Word) : (s.setI w).reports = s.reports := rfl

/-! ## setDt -/

@[simp] theorem setDt_v (b : Byte) : (s.setDt b).v = s.v := rfl
@[simp] theorem setDt_i (b : Byte) : (s.setDt b).i = s.i := rfl
@[simp] theorem setDt_pc (b : Byte) : (s.setDt b).pc = s.pc := rfl
@[simp] theorem setDt_sp (b : Byte) : (s.setDt b).sp = s.sp := rfl
@[simp] theorem setDt_stack (b : Byte) : (s.setDt b).stack = s.stack := rfl
@[simp] theorem setDt_dt (b : Byte) : (s.setDt b).dt = b := rfl
@[simp] theorem setDt_st (b : Byte) : (s.setDt b).st = s.st := rfl
@[simp] theorem setDt_keys (b : Byte) : (s.setDt b).keys = s.keys := rfl
@[simp] theorem setDt_display (b : Byte) : (s.setDt b).display = s.display := rfl
@[simp] theorem setDt_mem (b : Byte) : (s.setDt b).mem = s.mem := rfl
@[simp] theorem setDt_halted (b : Byte) : (s.setDt b).halted = s.halted := rfl
@[simp] theorem setDt_faultCause (b : Byte) : (s.setDt b).faultCause = s.faultCause := rfl
@[simp] theorem setDt_faultPc (b : Byte) : (s.setDt b).faultPc = s.faultPc := rfl
@[simp] theorem setDt_faultOp (b : Byte) : (s.setDt b).faultOp = s.faultOp := rfl
@[simp] theorem setDt_faultAddr (b : Byte) : (s.setDt b).faultAddr = s.faultAddr := rfl
@[simp] theorem setDt_params (b : Byte) : (s.setDt b).params = s.params := rfl
@[simp] theorem setDt_randomIn (b : Byte) : (s.setDt b).randomIn = s.randomIn := rfl
@[simp] theorem setDt_draws (b : Byte) : (s.setDt b).draws = s.draws := rfl
@[simp] theorem setDt_reports (b : Byte) : (s.setDt b).reports = s.reports := rfl

/-! ## setSt -/

@[simp] theorem setSt_v (b : Byte) : (s.setSt b).v = s.v := rfl
@[simp] theorem setSt_i (b : Byte) : (s.setSt b).i = s.i := rfl
@[simp] theorem setSt_pc (b : Byte) : (s.setSt b).pc = s.pc := rfl
@[simp] theorem setSt_sp (b : Byte) : (s.setSt b).sp = s.sp := rfl
@[simp] theorem setSt_stack (b : Byte) : (s.setSt b).stack = s.stack := rfl
@[simp] theorem setSt_dt (b : Byte) : (s.setSt b).dt = s.dt := rfl
@[simp] theorem setSt_st (b : Byte) : (s.setSt b).st = b := rfl
@[simp] theorem setSt_keys (b : Byte) : (s.setSt b).keys = s.keys := rfl
@[simp] theorem setSt_display (b : Byte) : (s.setSt b).display = s.display := rfl
@[simp] theorem setSt_mem (b : Byte) : (s.setSt b).mem = s.mem := rfl
@[simp] theorem setSt_halted (b : Byte) : (s.setSt b).halted = s.halted := rfl
@[simp] theorem setSt_faultCause (b : Byte) : (s.setSt b).faultCause = s.faultCause := rfl
@[simp] theorem setSt_faultPc (b : Byte) : (s.setSt b).faultPc = s.faultPc := rfl
@[simp] theorem setSt_faultOp (b : Byte) : (s.setSt b).faultOp = s.faultOp := rfl
@[simp] theorem setSt_faultAddr (b : Byte) : (s.setSt b).faultAddr = s.faultAddr := rfl
@[simp] theorem setSt_params (b : Byte) : (s.setSt b).params = s.params := rfl
@[simp] theorem setSt_randomIn (b : Byte) : (s.setSt b).randomIn = s.randomIn := rfl
@[simp] theorem setSt_draws (b : Byte) : (s.setSt b).draws = s.draws := rfl
@[simp] theorem setSt_reports (b : Byte) : (s.setSt b).reports = s.reports := rfl

/-! ## setDisplay -/

@[simp] theorem setDisplay_v (d : Display) : (s.setDisplay d).v = s.v := rfl
@[simp] theorem setDisplay_i (d : Display) : (s.setDisplay d).i = s.i := rfl
@[simp] theorem setDisplay_pc (d : Display) : (s.setDisplay d).pc = s.pc := rfl
@[simp] theorem setDisplay_sp (d : Display) : (s.setDisplay d).sp = s.sp := rfl
@[simp] theorem setDisplay_stack (d : Display) : (s.setDisplay d).stack = s.stack := rfl
@[simp] theorem setDisplay_dt (d : Display) : (s.setDisplay d).dt = s.dt := rfl
@[simp] theorem setDisplay_st (d : Display) : (s.setDisplay d).st = s.st := rfl
@[simp] theorem setDisplay_keys (d : Display) : (s.setDisplay d).keys = s.keys := rfl
@[simp] theorem setDisplay_display (d : Display) : (s.setDisplay d).display = d := rfl
@[simp] theorem setDisplay_mem (d : Display) : (s.setDisplay d).mem = s.mem := rfl
@[simp] theorem setDisplay_halted (d : Display) : (s.setDisplay d).halted = s.halted := rfl
@[simp] theorem setDisplay_faultCause (d : Display) : (s.setDisplay d).faultCause = s.faultCause := rfl
@[simp] theorem setDisplay_faultPc (d : Display) : (s.setDisplay d).faultPc = s.faultPc := rfl
@[simp] theorem setDisplay_faultOp (d : Display) : (s.setDisplay d).faultOp = s.faultOp := rfl
@[simp] theorem setDisplay_faultAddr (d : Display) : (s.setDisplay d).faultAddr = s.faultAddr := rfl
@[simp] theorem setDisplay_params (d : Display) : (s.setDisplay d).params = s.params := rfl
@[simp] theorem setDisplay_randomIn (d : Display) : (s.setDisplay d).randomIn = s.randomIn := rfl
@[simp] theorem setDisplay_draws (d : Display) : (s.setDisplay d).draws = s.draws := rfl
@[simp] theorem setDisplay_reports (d : Display) : (s.setDisplay d).reports = s.reports := rfl

/-! ## setPc -/

@[simp] theorem setPc_v (w : Word) : (s.setPc w).v = s.v := rfl
@[simp] theorem setPc_i (w : Word) : (s.setPc w).i = s.i := rfl
@[simp] theorem setPc_pc (w : Word) : (s.setPc w).pc = w := rfl
@[simp] theorem setPc_sp (w : Word) : (s.setPc w).sp = s.sp := rfl
@[simp] theorem setPc_stack (w : Word) : (s.setPc w).stack = s.stack := rfl
@[simp] theorem setPc_dt (w : Word) : (s.setPc w).dt = s.dt := rfl
@[simp] theorem setPc_st (w : Word) : (s.setPc w).st = s.st := rfl
@[simp] theorem setPc_keys (w : Word) : (s.setPc w).keys = s.keys := rfl
@[simp] theorem setPc_display (w : Word) : (s.setPc w).display = s.display := rfl
@[simp] theorem setPc_mem (w : Word) : (s.setPc w).mem = s.mem := rfl
@[simp] theorem setPc_halted (w : Word) : (s.setPc w).halted = s.halted := rfl
@[simp] theorem setPc_faultCause (w : Word) : (s.setPc w).faultCause = s.faultCause := rfl
@[simp] theorem setPc_faultPc (w : Word) : (s.setPc w).faultPc = s.faultPc := rfl
@[simp] theorem setPc_faultOp (w : Word) : (s.setPc w).faultOp = s.faultOp := rfl
@[simp] theorem setPc_faultAddr (w : Word) : (s.setPc w).faultAddr = s.faultAddr := rfl
@[simp] theorem setPc_params (w : Word) : (s.setPc w).params = s.params := rfl
@[simp] theorem setPc_randomIn (w : Word) : (s.setPc w).randomIn = s.randomIn := rfl
@[simp] theorem setPc_draws (w : Word) : (s.setPc w).draws = s.draws := rfl
@[simp] theorem setPc_reports (w : Word) : (s.setPc w).reports = s.reports := rfl

/-! ## push -/

@[simp] theorem push_v (w : Word) : (s.push w).v = s.v := rfl
@[simp] theorem push_i (w : Word) : (s.push w).i = s.i := rfl
@[simp] theorem push_pc (w : Word) : (s.push w).pc = s.pc := rfl
@[simp] theorem push_sp (w : Word) : (s.push w).sp = wrap 17 (s.sp.val + 1) := rfl
@[simp] theorem push_dt (w : Word) : (s.push w).dt = s.dt := rfl
@[simp] theorem push_st (w : Word) : (s.push w).st = s.st := rfl
@[simp] theorem push_keys (w : Word) : (s.push w).keys = s.keys := rfl
@[simp] theorem push_display (w : Word) : (s.push w).display = s.display := rfl
@[simp] theorem push_mem (w : Word) : (s.push w).mem = s.mem := rfl
@[simp] theorem push_halted (w : Word) : (s.push w).halted = s.halted := rfl
@[simp] theorem push_faultCause (w : Word) : (s.push w).faultCause = s.faultCause := rfl
@[simp] theorem push_faultPc (w : Word) : (s.push w).faultPc = s.faultPc := rfl
@[simp] theorem push_faultOp (w : Word) : (s.push w).faultOp = s.faultOp := rfl
@[simp] theorem push_faultAddr (w : Word) : (s.push w).faultAddr = s.faultAddr := rfl
@[simp] theorem push_params (w : Word) : (s.push w).params = s.params := rfl
@[simp] theorem push_randomIn (w : Word) : (s.push w).randomIn = s.randomIn := rfl
@[simp] theorem push_draws (w : Word) : (s.push w).draws = s.draws := rfl
@[simp] theorem push_reports (w : Word) : (s.push w).reports = s.reports := rfl

/-! ## pop -/

@[simp] theorem pop_v : (s.pop).v = s.v := rfl
@[simp] theorem pop_i : (s.pop).i = s.i := rfl
@[simp] theorem pop_pc : (s.pop).pc = s.pc := rfl
@[simp] theorem pop_sp : (s.pop).sp = wrap 17 (s.sp.val - 1) := rfl
@[simp] theorem pop_stack : (s.pop).stack = s.stack := rfl
@[simp] theorem pop_dt : (s.pop).dt = s.dt := rfl
@[simp] theorem pop_st : (s.pop).st = s.st := rfl
@[simp] theorem pop_keys : (s.pop).keys = s.keys := rfl
@[simp] theorem pop_display : (s.pop).display = s.display := rfl
@[simp] theorem pop_mem : (s.pop).mem = s.mem := rfl
@[simp] theorem pop_halted : (s.pop).halted = s.halted := rfl
@[simp] theorem pop_faultCause : (s.pop).faultCause = s.faultCause := rfl
@[simp] theorem pop_faultPc : (s.pop).faultPc = s.faultPc := rfl
@[simp] theorem pop_faultOp : (s.pop).faultOp = s.faultOp := rfl
@[simp] theorem pop_faultAddr : (s.pop).faultAddr = s.faultAddr := rfl
@[simp] theorem pop_params : (s.pop).params = s.params := rfl
@[simp] theorem pop_randomIn : (s.pop).randomIn = s.randomIn := rfl
@[simp] theorem pop_draws : (s.pop).draws = s.draws := rfl
@[simp] theorem pop_reports : (s.pop).reports = s.reports := rfl

/-! ## afterDraw -/

@[simp] theorem afterDraw_v : (s.afterDraw).v = s.v := rfl
@[simp] theorem afterDraw_i : (s.afterDraw).i = s.i := rfl
@[simp] theorem afterDraw_pc : (s.afterDraw).pc = s.pc := rfl
@[simp] theorem afterDraw_sp : (s.afterDraw).sp = s.sp := rfl
@[simp] theorem afterDraw_stack : (s.afterDraw).stack = s.stack := rfl
@[simp] theorem afterDraw_dt : (s.afterDraw).dt = s.dt := rfl
@[simp] theorem afterDraw_st : (s.afterDraw).st = s.st := rfl
@[simp] theorem afterDraw_keys : (s.afterDraw).keys = s.keys := rfl
@[simp] theorem afterDraw_display : (s.afterDraw).display = s.display := rfl
@[simp] theorem afterDraw_mem : (s.afterDraw).mem = s.mem := rfl
@[simp] theorem afterDraw_halted : (s.afterDraw).halted = s.halted := rfl
@[simp] theorem afterDraw_faultCause : (s.afterDraw).faultCause = s.faultCause := rfl
@[simp] theorem afterDraw_faultPc : (s.afterDraw).faultPc = s.faultPc := rfl
@[simp] theorem afterDraw_faultOp : (s.afterDraw).faultOp = s.faultOp := rfl
@[simp] theorem afterDraw_faultAddr : (s.afterDraw).faultAddr = s.faultAddr := rfl
@[simp] theorem afterDraw_params : (s.afterDraw).params = s.params := rfl
@[simp] theorem afterDraw_randomIn : (s.afterDraw).randomIn = none := rfl
@[simp] theorem afterDraw_draws : (s.afterDraw).draws = s.draws + 1 := rfl
@[simp] theorem afterDraw_reports : (s.afterDraw).reports = s.reports := rfl

/-! ## raiseFault -/

@[simp] theorem raiseFault_v (c : Cause) (op : Word) (n : Nat) : (s.raiseFault c op n).v = s.v := rfl
@[simp] theorem raiseFault_i (c : Cause) (op : Word) (n : Nat) : (s.raiseFault c op n).i = s.i := rfl
@[simp] theorem raiseFault_pc (c : Cause) (op : Word) (n : Nat) : (s.raiseFault c op n).pc = s.pc := rfl
@[simp] theorem raiseFault_sp (c : Cause) (op : Word) (n : Nat) : (s.raiseFault c op n).sp = s.sp := rfl
@[simp] theorem raiseFault_stack (c : Cause) (op : Word) (n : Nat) : (s.raiseFault c op n).stack = s.stack := rfl
@[simp] theorem raiseFault_dt (c : Cause) (op : Word) (n : Nat) : (s.raiseFault c op n).dt = s.dt := rfl
@[simp] theorem raiseFault_st (c : Cause) (op : Word) (n : Nat) : (s.raiseFault c op n).st = s.st := rfl
@[simp] theorem raiseFault_keys (c : Cause) (op : Word) (n : Nat) : (s.raiseFault c op n).keys = s.keys := rfl
@[simp] theorem raiseFault_display (c : Cause) (op : Word) (n : Nat) : (s.raiseFault c op n).display = s.display := rfl
@[simp] theorem raiseFault_mem (c : Cause) (op : Word) (n : Nat) : (s.raiseFault c op n).mem = s.mem := rfl
@[simp] theorem raiseFault_halted (c : Cause) (op : Word) (n : Nat) : (s.raiseFault c op n).halted = true := rfl
@[simp] theorem raiseFault_faultCause (c : Cause) (op : Word) (n : Nat) : (s.raiseFault c op n).faultCause = c := rfl
@[simp] theorem raiseFault_faultPc (c : Cause) (op : Word) (n : Nat) : (s.raiseFault c op n).faultPc = s.pc := rfl
@[simp] theorem raiseFault_faultOp (c : Cause) (op : Word) (n : Nat) : (s.raiseFault c op n).faultOp = op := rfl
@[simp] theorem raiseFault_faultAddr (c : Cause) (op : Word) (n : Nat) : (s.raiseFault c op n).faultAddr = BitVec.ofNat 17 n := rfl
@[simp] theorem raiseFault_params (c : Cause) (op : Word) (n : Nat) : (s.raiseFault c op n).params = s.params := rfl
@[simp] theorem raiseFault_randomIn (c : Cause) (op : Word) (n : Nat) : (s.raiseFault c op n).randomIn = s.randomIn := rfl
@[simp] theorem raiseFault_draws (c : Cause) (op : Word) (n : Nat) : (s.raiseFault c op n).draws = s.draws := rfl
@[simp] theorem raiseFault_reports (c : Cause) (op : Word) (n : Nat) : (s.raiseFault c op n).reports = s.reports := rfl

/-! ## tick -/

@[simp] theorem tick_v : (s.tick).v = s.v := rfl
@[simp] theorem tick_i : (s.tick).i = s.i := rfl
@[simp] theorem tick_pc : (s.tick).pc = s.pc := rfl
@[simp] theorem tick_sp : (s.tick).sp = s.sp := rfl
@[simp] theorem tick_stack : (s.tick).stack = s.stack := rfl
@[simp] theorem tick_dt : (s.tick).dt = countdown s.dt := rfl
@[simp] theorem tick_st : (s.tick).st = countdown s.st := rfl
@[simp] theorem tick_keys : (s.tick).keys = s.keys := rfl
@[simp] theorem tick_display : (s.tick).display = s.display := rfl
@[simp] theorem tick_mem : (s.tick).mem = s.mem := rfl
@[simp] theorem tick_halted : (s.tick).halted = s.halted := rfl
@[simp] theorem tick_faultCause : (s.tick).faultCause = s.faultCause := rfl
@[simp] theorem tick_faultPc : (s.tick).faultPc = s.faultPc := rfl
@[simp] theorem tick_faultOp : (s.tick).faultOp = s.faultOp := rfl
@[simp] theorem tick_faultAddr : (s.tick).faultAddr = s.faultAddr := rfl
@[simp] theorem tick_params : (s.tick).params = s.params := rfl
@[simp] theorem tick_randomIn : (s.tick).randomIn = s.randomIn := rfl
@[simp] theorem tick_draws : (s.tick).draws = s.draws := rfl
@[simp] theorem tick_reports : (s.tick).reports = s.reports := rfl

/-! ## report -/

@[simp] theorem report_v : (s.report).v = s.v := rfl
@[simp] theorem report_i : (s.report).i = s.i := rfl
@[simp] theorem report_pc : (s.report).pc = s.pc := rfl
@[simp] theorem report_sp : (s.report).sp = s.sp := rfl
@[simp] theorem report_stack : (s.report).stack = s.stack := rfl
@[simp] theorem report_dt : (s.report).dt = s.dt := rfl
@[simp] theorem report_st : (s.report).st = s.st := rfl
@[simp] theorem report_keys : (s.report).keys = s.keys := rfl
@[simp] theorem report_display : (s.report).display = s.display := rfl
@[simp] theorem report_mem : (s.report).mem = s.mem := rfl
@[simp] theorem report_halted : (s.report).halted = s.halted := rfl
@[simp] theorem report_faultCause : (s.report).faultCause = s.faultCause := rfl
@[simp] theorem report_faultPc : (s.report).faultPc = s.faultPc := rfl
@[simp] theorem report_faultOp : (s.report).faultOp = s.faultOp := rfl
@[simp] theorem report_faultAddr : (s.report).faultAddr = s.faultAddr := rfl
@[simp] theorem report_params : (s.report).params = s.params := rfl
@[simp] theorem report_randomIn : (s.report).randomIn = s.randomIn := rfl
@[simp] theorem report_draws : (s.report).draws = s.draws := rfl
@[simp] theorem report_reports : (s.report).reports = { pc := s.pc, op := s.opcode } :: s.reports := rfl

/-! ## placeWord -/

@[simp] theorem placeWord_v (op : Word) : (s.placeWord op).v = s.v := rfl
@[simp] theorem placeWord_i (op : Word) : (s.placeWord op).i = s.i := rfl
@[simp] theorem placeWord_pc (op : Word) : (s.placeWord op).pc = s.pc := rfl
@[simp] theorem placeWord_sp (op : Word) : (s.placeWord op).sp = s.sp := rfl
@[simp] theorem placeWord_stack (op : Word) : (s.placeWord op).stack = s.stack := rfl
@[simp] theorem placeWord_dt (op : Word) : (s.placeWord op).dt = s.dt := rfl
@[simp] theorem placeWord_st (op : Word) : (s.placeWord op).st = s.st := rfl
@[simp] theorem placeWord_keys (op : Word) : (s.placeWord op).keys = s.keys := rfl
@[simp] theorem placeWord_display (op : Word) : (s.placeWord op).display = s.display := rfl
@[simp] theorem placeWord_halted (op : Word) : (s.placeWord op).halted = s.halted := rfl
@[simp] theorem placeWord_faultCause (op : Word) : (s.placeWord op).faultCause = s.faultCause := rfl
@[simp] theorem placeWord_faultPc (op : Word) : (s.placeWord op).faultPc = s.faultPc := rfl
@[simp] theorem placeWord_faultOp (op : Word) : (s.placeWord op).faultOp = s.faultOp := rfl
@[simp] theorem placeWord_faultAddr (op : Word) : (s.placeWord op).faultAddr = s.faultAddr := rfl
@[simp] theorem placeWord_params (op : Word) : (s.placeWord op).params = s.params := rfl
@[simp] theorem placeWord_randomIn (op : Word) : (s.placeWord op).randomIn = s.randomIn := rfl
@[simp] theorem placeWord_draws (op : Word) : (s.placeWord op).draws = s.draws := rfl
@[simp] theorem placeWord_reports (op : Word) : (s.placeWord op).reports = s.reports := rfl

/-! ## Registers, the stack and memory through their accessors -/

/-- Reading a register after a write: the written one holds the byte, every other keeps its value. -/
theorem getV_setV (x k : Reg) (b : Byte) : (s.setV x b).getV k = if k = x then b else s.getV k := by
  simp only [State.getV, State.setV, Vector.get_eq_getElem, Vector.getElem_set, Fin.ext_iff, eq_comm]

@[simp] theorem getV_setV_self (x : Reg) (b : Byte) : (s.setV x b).getV x = b := by simp [getV_setV]

theorem getV_setV_ne {x k : Reg} (h : k ≠ x) (b : Byte) : (s.setV x b).getV k = s.getV k := by simp [getV_setV, h]

/-- A register read depends on the register file alone. -/
theorem getV_congr {s t : State} (h : t.v = s.v) (k : Reg) : t.getV k = s.getV k := by simp [State.getV, h]

/-- A key read depends on the latch alone. -/
theorem getKey_congr {s t : State} (h : t.keys = s.keys) (k : Key) : t.getKey k = s.getKey k := by simp [State.getKey, h]

/-- The result and the flag of an instruction: VF holds the flag, Vx the result where x is not F (42_alu.md R172). -/
theorem getV_setResult (x k : Reg) (r : Byte) (f : Bool) :
    (s.setResult x r f).getV k = if k = regF then flagByte f else if k = x then r else s.getV k := by
  simp only [State.setResult, getV_setV]

/-- A pushed entry is the word pushed; every other entry keeps its value (41_control_flow.md R152). -/
theorem push_stack_get (w : Word) (k : Fin 16) :
    (s.push w).stack.get k = if k = wrap 16 s.sp.val then w else s.stack.get k := by
  simp only [State.push, Vector.get_eq_getElem, Vector.getElem_set, Fin.ext_iff, eq_comm]

/-- The normal increment touches pc alone (40_step_cycle.md R133). -/
theorem advance_eq : s.advance = s.setPc (s.pc + 2) := rfl

/-- A skip touches pc alone (40_step_cycle.md R133). -/
theorem skipIf_eq (c : Bool) : s.skipIf c = s.setPc (s.pc + if c then 4 else 2) := rfl

@[simp] theorem getV_setI (w : Word) (k : Reg) : (s.setI w).getV k = s.getV k := rfl
@[simp] theorem getV_setDt (b : Byte) (k : Reg) : (s.setDt b).getV k = s.getV k := rfl
@[simp] theorem getV_setSt (b : Byte) (k : Reg) : (s.setSt b).getV k = s.getV k := rfl
@[simp] theorem getV_setDisplay (d : Display) (k : Reg) : (s.setDisplay d).getV k = s.getV k := rfl
@[simp] theorem getV_setPc (w : Word) (k : Reg) : (s.setPc w).getV k = s.getV k := rfl
@[simp] theorem getV_push (w : Word) (k : Reg) : (s.push w).getV k = s.getV k := rfl
@[simp] theorem getV_pop (k : Reg) : (s.pop).getV k = s.getV k := rfl
@[simp] theorem getV_afterDraw (k : Reg) : (s.afterDraw).getV k = s.getV k := rfl
@[simp] theorem getV_raiseFault (c : Cause) (op : Word) (n : Nat) (k : Reg) : (s.raiseFault c op n).getV k = s.getV k := rfl
@[simp] theorem getV_tick (k : Reg) : (s.tick).getV k = s.getV k := rfl
@[simp] theorem getV_report (k : Reg) : (s.report).getV k = s.getV k := rfl

end Sys2Proof.Machine
end

