-- ==== Sys2Proof/Laws/Memory.lean ====
section
/-!
SUPPORT. Sys2Proof/Laws/Memory.lean: what each memory operation reads back, and that it keeps the canonical form.
-/
namespace Sys2Proof.Machine

/-! ## Reading back -/

theorem read_erase_self (m : Memory) (a : Nat) : (m.erase a).read a = resetByte a := by
  induction m with
  | nil => rfl
  | cons c m ih =>
    by_cases h : c.1 = a
    · simpa [Memory.erase, h] using ih
    · simpa [Memory.erase, h, Memory.read] using ih

theorem read_erase_ne (m : Memory) {a k : Nat} (hk : k ≠ a) : (m.erase a).read k = m.read k := by
  induction m with
  | nil => rfl
  | cons c m ih =>
    by_cases h : c.1 = a
    · have hk' : a ≠ k := fun e => hk e.symm
      simpa [Memory.erase, Memory.read, h, hk'] using ih
    · simp only [Memory.erase, ne_eq, h, not_false_eq_true, decide_true, List.filter_cons_of_pos, Memory.read] at ih ⊢
      rw [ih]

theorem read_insert_self (m : Memory) (c : Host.Cell) (h : ∀ d ∈ m, d.1 ≠ c.1) : (m.insert c).read c.1 = c.2 := by
  induction m with
  | nil => simp [Memory.insert, Memory.read]
  | cons d m ih =>
    simp only [Memory.insert]
    split
    · simp [Memory.read]
    · simp only [Memory.read, h d (by simp), if_false]
      exact ih fun e he => h e (by simp [he])

theorem read_insert_ne (m : Memory) (c : Host.Cell) {k : Nat} (hk : k ≠ c.1) : (m.insert c).read k = m.read k := by
  have hk' : c.1 ≠ k := fun e => hk e.symm
  induction m with
  | nil => simp [Memory.insert, Memory.read, hk']
  | cons d m ih =>
    simp only [Memory.insert]
    split
    · simp [Memory.read, hk']
    · simp only [Memory.read, ih]

theorem mem_erase {m : Memory} {a : Nat} {c : Host.Cell} : c ∈ m.erase a ↔ c ∈ m ∧ c.1 ≠ a := by
  simp [Memory.erase]

/-- A read after a write to the same address gives the byte written. -/
@[simp] theorem read_write_self (m : Memory) (a : Nat) (b : Byte) : (m.write a b).read a = b := by
  unfold Memory.write
  split
  · next h => rw [read_erase_self, h]
  · exact read_insert_self _ (a, b) fun d hd => (mem_erase.1 hd).2

/-- A write leaves every other address alone. -/
theorem read_write_ne (m : Memory) {a k : Nat} (b : Byte) (h : k ≠ a) : (m.write a b).read k = m.read k := by
  unfold Memory.write
  split
  · exact read_erase_ne m h
  · rw [read_insert_ne _ (a, b) h, read_erase_ne m h]

theorem read_write (m : Memory) (a k : Nat) (b : Byte) :
    (m.write a b).read k = if k = a then b else m.read k := by
  split
  · next h => rw [h, read_write_self]
  · next h => exact read_write_ne m b h

/-- What an image leaves in memory: its bytes from `a` up to 0x1000, every other byte as before (70_reset_and_hazards.md R302). -/
theorem read_load (image : List Byte) (m : Memory) (a k : Nat) :
    (m.load a image).read k =
      if a ≤ k ∧ k < a + image.length ∧ k < Config.memSize then image.getD (k - a) 0 else m.read k := by
  induction image generalizing m a with
  | nil =>
    simp only [Memory.load, List.length_nil, Nat.add_zero]
    split <;> first | omega | rfl
  | cons b bs ih =>
    simp only [Memory.load, List.length_cons]
    split
    · rw [ih, read_write]
      by_cases hk : k = a
      · subst hk
        rw [if_neg (by omega), if_pos rfl, if_pos ⟨by omega, by omega, by assumption⟩]
        simp
      · rw [if_neg hk]
        by_cases hc : a + 1 ≤ k ∧ k < a + 1 + bs.length ∧ k < Config.memSize
        · rw [if_pos hc, if_pos ⟨by omega, by omega, hc.2.2⟩]
          obtain ⟨j, rfl⟩ : ∃ j, k = a + 1 + j := ⟨k - (a + 1), by omega⟩
          have e : a + 1 + j - a = j + 1 := by omega
          rw [e, show a + 1 + j - (a + 1) = j by omega, List.getD_cons_succ]
        · rw [if_neg hc, if_neg (by omega)]
    · rw [if_neg (by omega)]

/-- The `j`-th byte of a block read. -/
theorem getD_readBytes (m : Memory) (a n j : Nat) (h : j < n) : (m.readBytes a n).getD j 0 = m.read (a + j) := by
  induction n generalizing a j with
  | zero => omega
  | succ n ih =>
    cases j with
    | zero => simp [Memory.readBytes]
    | succ j =>
      rw [Memory.readBytes, List.getD_cons_succ, ih (a + 1) j (by omega)]
      congr 1; omega

@[simp] theorem length_readBytes (m : Memory) (a n : Nat) : (m.readBytes a n).length = n := by
  induction n generalizing a with
  | zero => rfl
  | succ n ih => simp [Memory.readBytes, ih]

/-! ## The canonical form -/

theorem erase_wf {m : Memory} (h : m.wf) (a : Nat) : (m.erase a).wf :=
  ⟨h.1.filter _, fun c hc => h.2 c (mem_erase.1 hc).1⟩

theorem mem_insert {m : Memory} {c d : Host.Cell} : d ∈ m.insert c ↔ d = c ∨ d ∈ m := by
  induction m with
  | nil => simp [Memory.insert]
  | cons e m ih =>
    simp only [Memory.insert]
    split
    · simp
    · simp only [List.mem_cons, ih]; tauto

theorem insert_pairwise {m : Memory} {c : Host.Cell} (h : m.Pairwise fun c d => c.1 < d.1) (hc : ∀ d ∈ m, d.1 ≠ c.1) :
    (m.insert c).Pairwise fun c d => c.1 < d.1 := by
  induction m with
  | nil => simp [Memory.insert]
  | cons e m ih =>
    have hm := List.pairwise_cons.1 h
    simp only [Memory.insert]
    split
    · next hlt =>
      refine List.pairwise_cons.2 ⟨fun d hd => ?_, h⟩
      rcases List.mem_cons.1 hd with rfl | hd
      · exact hlt
      · exact hlt.trans (hm.1 d hd)
    · next hge =>
      refine List.pairwise_cons.2 ⟨fun d hd => ?_, ih hm.2 fun d hd => hc d (by simp [hd])⟩
      rcases mem_insert.1 hd with rfl | hd
      · have := hc e (by simp)
        omega
      · exact hm.1 d hd

/-- A write to an address that exists keeps the canonical form. -/
theorem write_wf {m : Memory} (h : m.wf) {a : Nat} (ha : a < Config.memSize) (b : Byte) : (m.write a b).wf := by
  unfold Memory.write
  split
  · exact erase_wf h a
  · next hb =>
    have he := erase_wf h a
    refine ⟨insert_pairwise he.1 fun d hd => (mem_erase.1 hd).2, fun c hc => ?_⟩
    rcases mem_insert.1 hc with rfl | hc
    · exact ⟨ha, hb⟩
    · exact he.2 c hc

/-- Loading an image keeps the canonical form. -/
theorem load_wf (image : List Byte) {m : Memory} (h : m.wf) (a : Nat) : (m.load a image).wf := by
  induction image generalizing m a with
  | nil => exact h
  | cons b bs ih =>
    simp only [Memory.load]
    split
    · next ha => exact ih (write_wf h ha b) _
    · exact h

theorem reset_wf : State.reset.mem.wf := by decide

/-- The reset transaction leaves memory in canonical form, whatever the table FONT (70_reset_and_hazards.md R300). -/
theorem hostReset_wf (s : State) : (hostReset s).mem.wf := load_wf _ reset_wf _

/-- Under the default font the reset transaction leaves the memory of `State.reset`. -/
theorem hostReset_mem {s : State} (h : s.params.font = defaults.font) : (hostReset s).mem = State.reset.mem := by
  simp only [hostReset, h]
  decide +kernel

/-- What the reset transaction leaves in memory: FONT, and the reset contents past it (20_memory.md R72). -/
theorem read_hostReset (s : State) (a : Nat) :
    (hostReset s).mem.read a = if h : a < Config.fontSize then s.params.font[a] else resetByte a := by
  show (State.reset.mem.load 0 s.params.font.toList).read a = _
  rw [read_load]
  by_cases h : a < Config.fontSize
  · have hm : a < Config.memSize := Nat.lt_trans h (by decide)
    rw [dif_pos h, if_pos ⟨Nat.zero_le a, by simpa using h, hm⟩]
    simp [List.getD_eq_getElem?_getD, h]
  · rw [dif_neg h, if_neg]
    · rfl
    · simp only [Vector.length_toList]
      omega

/-! ## Stores of Fx33 and Fx55 -/

/-- One store changes memory alone (20_memory.md R77). -/
theorem storeByte_eq (s : State) (a : Nat) (b : Byte) :
    s.storeByte a b = { s with mem := (s.storeByte a b).mem } := by
  unfold State.storeByte; split <;> rfl

/-- What a store leaves in memory: the byte lands unless the font table ignores it (20_memory.md R77). -/
theorem read_storeByte (s : State) (a k : Nat) (b : Byte) :
    (s.storeByte a b).mem.read k =
      if k = a ∧ ¬ (a < Config.fontSize ∧ s.params.fontWrite = .ignore) then b else s.mem.read k := by
  unfold State.storeByte
  split
  · next h => simp [h]
  · next h => simp only [read_write, h, not_false_eq_true, and_true]

/-- A block of stores changes memory alone. -/
theorem storeBytes_eq (bs : List Byte) (s : State) (a : Nat) :
    s.storeBytes a bs = { s with mem := (s.storeBytes a bs).mem } := by
  induction bs generalizing s a with
  | nil => rfl
  | cons b bs ih =>
    rw [State.storeBytes, ih, storeByte_eq]

/-- What a block of stores leaves in memory: its bytes from `a` on, each unless the font table ignores it, and every other byte as
before (20_memory.md R74, R77). -/
theorem read_storeBytes (bs : List Byte) (s : State) (a k : Nat) :
    (s.storeBytes a bs).mem.read k =
      if (a ≤ k ∧ k < a + bs.length) ∧ ¬ (k < Config.fontSize ∧ s.params.fontWrite = .ignore)
      then bs.getD (k - a) 0 else s.mem.read k := by
  induction bs generalizing s a with
  | nil => simp only [State.storeBytes, List.length_nil]; rw [if_neg (by omega)]
  | cons b bs ih =>
    have hp : (s.storeByte a b).params = s.params := by rw [storeByte_eq]
    rw [State.storeBytes, ih, read_storeByte, hp, List.length_cons]
    by_cases hi : k < Config.fontSize ∧ s.params.fontWrite = .ignore
    · have ha : ¬ (k = a ∧ ¬ (a < Config.fontSize ∧ s.params.fontWrite = .ignore)) := fun h => h.2 (h.1 ▸ hi)
      rw [if_neg fun h => h.2 hi, if_neg ha, if_neg fun h => h.2 hi]
    · by_cases hk : k = a
      · subst hk
        rw [if_neg fun h => by omega, if_pos ⟨rfl, hi⟩, if_pos ⟨by omega, hi⟩]
        simp
      · rw [if_neg (c := k = a ∧ _) fun h => hk h.1]
        by_cases hc : a + 1 ≤ k ∧ k < a + 1 + bs.length
        · rw [if_pos ⟨hc, hi⟩, if_pos ⟨by omega, hi⟩]
          obtain ⟨j, rfl⟩ : ∃ j, k = a + 1 + j := ⟨k - (a + 1), by omega⟩
          rw [show a + 1 + j - a = j + 1 by omega, show a + 1 + j - (a + 1) = j by omega, List.getD_cons_succ]
        · rw [if_neg fun h => hc h.1, if_neg fun h => by omega]

/-- A block of stores below 0x1000 keeps the canonical form. -/
theorem storeBytes_wf (bs : List Byte) {s : State} (h : s.mem.wf) (a : Nat) (hr : a + bs.length ≤ Config.memSize) :
    (s.storeBytes a bs).mem.wf := by
  induction bs generalizing s a with
  | nil => exact h
  | cons b bs ih =>
    rw [List.length_cons] at hr
    refine ih ?_ (a + 1) (by omega)
    unfold State.storeByte
    split
    · exact h
    · exact write_wf h (by omega) b

/-- A word is its two bytes, the high one first (20_memory.md R73). -/
theorem wordOf_split (op : Word) : wordOf (op.extractLsb' 8 8) (op.extractLsb' 0 8) = op := by
  unfold wordOf
  ext i hi
  simp only [BitVec.getElem_append, BitVec.getElem_extractLsb']
  split
  · simp [BitVec.getLsbD_eq_getElem, *]
  · rw [show 8 + (i - 8) = i by omega, BitVec.getLsbD_eq_getElem]

/-- A word placed for the next fetch is the word at pc. -/
theorem opcode_placeWord (s : State) (op : Word) : (s.placeWord op).opcode = op := by
  simp only [State.opcode, State.placeWord, read_write, wordOf]
  rw [if_pos trivial, if_pos trivial, if_neg (by omega)]
  exact wordOf_split op

end Sys2Proof.Machine
end

