-- ==== Sys2Proof/Laws/Ops.lean ====
section
/-!
SUPPORT. Sys2Proof/Laws/Ops.lean: what each shared operation can do, said once: checks before a write, block loads, the key scan,
the drawing of a sprite, and the step around an instruction.
-/
namespace Sys2Proof.Machine

/-! ## Checks and faults -/

/-- A checked instruction either raises the fault found, in the state before it, or answers its body (60_exceptions.md R265). -/
theorem checked_next {s t body : State} {f : Option (Cause × Nat)} (h : s.checked f body = .next t) :
    (∃ c n, f = some (c, n) ∧ t = s.raise c n) ∨ (f = none ∧ t = body) := by
  cases f with
  | none => exact .inr ⟨rfl, by injection h with h; exact h.symm⟩
  | some p => exact .inl ⟨p.1, p.2, rfl, by injection h with h; exact h.symm⟩

@[simp] theorem checked_none (s body : State) : s.checked none body = .next body := rfl

@[simp] theorem checked_some (s body : State) (c : Cause) (n : Nat) : s.checked (some (c, n)) body = .next (s.raise c n) := rfl

/-- The opcode a fault records is the word at pc (60_exceptions.md R264). -/
theorem raise_eq (s : State) (c : Cause) (n : Nat) : s.raise c n = Faulted s c (wordAtPc s) n := rfl

/-- Fault entry writes the fault status and nothing else (60_exceptions.md R264). -/
theorem faulted_frame (s : State) (c : Cause) (op : Word) (n : Nat) : Frame Part.faultStatus s (Faulted s c op n) := by
  intro p hp
  cases p <;> first | rfl | (exfalso; exact hp (by simp [Part.faultStatus]))

/-- The range check, with its numbers (20_memory.md R76). -/
theorem rangeFault_eq (s : State) (n : Nat) : s.rangeFault n =
    if 0 < n ∧ 0x1000 ≤ s.i.toNat + (n - 1) then some (.dataRange, s.i.toNat + (n - 1)) else none := rfl

/-- The font check, with its numbers (20_memory.md R77). -/
theorem fontFault_eq (s : State) : s.fontFault =
    if s.i.toNat < 0x50 ∧ s.params.fontWrite = .fault then some (.fontWrite, s.i.toNat) else none := rfl

/-- The range check finds nothing exactly when every byte of the access exists (20_memory.md R76). -/
theorem rangeFault_none {s : State} {n : Nat} : s.rangeFault n = none ↔ n = 0 ∨ s.i.toNat + n ≤ 0x1000 := by
  rw [rangeFault_eq]
  split
  · next h => simp only [reduceCtorEq, false_iff]; omega
  · next h => simp only [true_iff]; omega

/-- An access past 0xFFF raises DATA_RANGE with its largest address (20_memory.md R76). -/
theorem rangeFault_some {s : State} {n : Nat} (hn : 0 < n) (h : 0x1000 < s.i.toNat + n) :
    s.rangeFault n = some (.dataRange, s.i.toNat + n - 1) := by
  rw [rangeFault_eq, if_pos (by omega), Nat.add_sub_assoc hn]

/-- The checks of a store find nothing exactly when it is allowed (20_memory.md R76, R77). -/
theorem storeFault_none {s : State} {n : Nat} (hn : 0 < n) : s.storeFault n = none ↔ StoreAllowed s n := by
  unfold State.storeFault StoreAllowed
  cases h : s.rangeFault n with
  | some f =>
    simp only [reduceCtorEq, false_iff, not_and]
    intro h1
    rw [rangeFault_none.2 (.inr h1)] at h
    cases h
  | none =>
    have := rangeFault_none.1 h
    simp only [fontFault_eq, ite_eq_right_iff, reduceCtorEq, imp_false]
    exact ⟨fun h2 => ⟨by omega, fun h3 => h2 ⟨by omega, h3.2⟩⟩, fun h2 h3 => h2.2 ⟨by omega, h3.2⟩⟩

/-- A store past 0xFFF raises DATA_RANGE, whatever the font policy (43_index_memory.md R206). -/
theorem storeFault_range {s : State} {n : Nat} (hn : 0 < n) (h : 0x1000 < s.i.toNat + n) :
    s.storeFault n = some (.dataRange, s.i.toNat + n - 1) := by
  rw [State.storeFault, rangeFault_some hn h]

/-- A store from the font table under `P_FONT_WRITE = fault` raises FONT_WRITE (20_memory.md R77). -/
theorem storeFault_font {s : State} {n : Nat} (hn : n ≤ 16) (hi : s.i.toNat ≤ 0x04F) (hp : s.params.fontWrite = .fault) :
    s.storeFault n = some (.fontWrite, s.i.toNat) := by
  rw [State.storeFault, rangeFault_none.2 (.inr (by omega)), fontFault_eq, if_pos ⟨by omega, hp⟩]

/-- Whatever fault a range check finds is DATA_RANGE with an address that fits FAULT_ADDR (60_exceptions.md R261). -/
theorem rangeFault_cause {s : State} {n : Nat} {f : Cause × Nat} (hn : n ≤ 16) (h : s.rangeFault n = some f) :
    f.1 = .dataRange ∧ f.2 < 2 ^ 17 := by
  rw [rangeFault_eq] at h
  split at h
  · cases h; exact ⟨rfl, by have := s.i.isLt; simp only; omega⟩
  · cases h

theorem storeFault_cause {s : State} {n : Nat} {f : Cause × Nat} (hn : n ≤ 16) (h : s.storeFault n = some f) :
    (f.1 = .dataRange ∨ f.1 = .fontWrite) ∧ f.2 < 2 ^ 17 := by
  unfold State.storeFault at h
  cases hr : s.rangeFault n with
  | some g =>
    rw [hr] at h; cases h
    exact ⟨.inl (rangeFault_cause hn hr).1, (rangeFault_cause hn hr).2⟩
  | none =>
    rw [hr] at h
    simp only [fontFault_eq] at h
    split at h
    · cases h; exact ⟨.inr rfl, by have := s.i.isLt; simp only; omega⟩
    · cases h

theorem keyFault_cause {s : State} {v : Byte} {f : Cause × Nat} (h : s.keyFault v = some f) :
    f.1 = .keyRange ∧ f.2 < 2 ^ 17 := by
  unfold State.keyFault at h
  split at h
  · cases h; exact ⟨rfl, by have := v.isLt; simp only; omega⟩
  · cases h

theorem returnFault_cause {s : State} {f : Cause × Nat} (h : s.returnFault = some f) : f = (.stackUnderflow, 0) := by
  unfold State.returnFault at h
  split at h <;> cases h
  rfl

theorem callFault_cause {s : State} {f : Cause × Nat} (h : s.callFault = some f) : f = (.stackOverflow, 0) := by
  unfold State.callFault at h
  split at h <;> cases h
  rfl

/-! ## Block loads -/

/-- What a block load leaves in the registers: V0..V(n-1) hold the bytes at I, every other register is unchanged
(43_index_memory.md R205). -/
theorem getV_loadBlock (s : State) (n : Nat) (hn : n ≤ 16) (k : Reg) :
    (s.loadBlock n).getV k = if k.val < n then s.mem.read (s.i.toNat + k.val) else s.getV k := by
  induction n with
  | zero => simp [State.loadBlock]
  | succ n ih =>
    rw [State.loadBlock, getV_setV, ih (by omega)]
    by_cases h : k = wrap 16 n
    · have hk : k.val = n := by rw [h]; exact Nat.mod_eq_of_lt (by omega)
      rw [if_pos h, if_pos (by omega), State.ea, hk]
    · have hk : k.val ≠ n := fun e => h (Fin.ext (by rw [e]; exact (Nat.mod_eq_of_lt (by omega)).symm))
      rw [if_neg h]
      by_cases h2 : k.val < n
      · rw [if_pos h2, if_pos (by omega)]
      · rw [if_neg h2, if_neg (by omega)]

/-- A block load changes the registers alone (43_index_memory.md R205). -/
theorem loadBlock_eq (s : State) (n : Nat) : s.loadBlock n = { s with v := (s.loadBlock n).v } := by
  induction n with
  | zero => rfl
  | succ n ih => rw [State.loadBlock, State.setV, ih]

/-- The `k`-th byte of a block of registers (43_index_memory.md R204). -/
theorem getD_blockBytes (s : State) {n : Nat} {k : Reg} (hk : k.val < n) :
    (s.blockBytes n).getD k.val 0 = s.getV k := by
  simp [State.blockBytes, List.getD_eq_getElem?_getD, List.getElem?_range hk]

@[simp] theorem length_blockBytes (s : State) (n : Nat) : (s.blockBytes n).length = n := by simp [State.blockBytes]

/-! ## The key scan -/

/-- The scan finds the lowest pressed key, and nothing exactly when no key is pressed (45_timers_keys.md R243). -/
theorem lowestKey_some {s : State} {k : Key} :
    s.lowestKey = some k ↔ s.getKey k = true ∧ ∀ j : Key, j < k → s.getKey j = false := by
  have h : (List.range 16).map (wrap 16) = List.finRange 16 := by decide
  unfold State.lowestKey
  rw [h, List.find?_eq_some_iff_getElem]
  constructor
  · rintro ⟨hk, i, hi, rfl, hj⟩
    refine ⟨hk, fun j hjk => ?_⟩
    have := hj j.val (by simpa [Fin.lt_def] using hjk)
    simpa using this
  · rintro ⟨hk, hj⟩
    refine ⟨hk, k.val, by simp, by simp, fun j hjk => ?_⟩
    have := hj ⟨j, by omega⟩ (by simpa [Fin.lt_def] using hjk)
    simpa using this

theorem lowestKey_none {s : State} : s.lowestKey = none ↔ ∀ k, s.getKey k = false := by
  have h : (List.range 16).map (wrap 16) = List.finRange 16 := by decide
  unfold State.lowestKey
  rw [h, List.find?_eq_none]
  simp

end Sys2Proof.Machine
end

