-- ==== Sys2Proof/Laws/Draw.lean ====
section
/-!
SUPPORT. Sys2Proof/Laws/Draw.lean: what the drawing loops of Dxyn do to each pixel and when they report a collision
(44_display.md R221 to R223).
-/
namespace Sys2Proof.Machine

@[simp] theorem pixel_clear (row : Fin 32) (col : Fin 64) : Display.clear.pixel row col = false := by
  simp [Display.clear, Display.pixel, Vector.get_eq_getElem]

theorem pixel_flip (d : Display) (row r : Fin 32) (col c : Fin 64) :
    (d.flip row col).pixel r c = (d.pixel r c ^^ (decide (r = row) && decide (c = col))) := by
  unfold Display.flip Display.pixel
  simp only [Vector.get_eq_getElem, Vector.getElem_set]
  by_cases hr : r = row
  · subst hr
    rw [if_pos rfl, Vector.getElem_set]
    by_cases hc : c = col
    · subst hc; simp
    · rw [if_neg fun e => hc (Fin.ext e.symm)]; simp [hc]
  · rw [if_neg fun e => hr (Fin.ext e.symm)]; simp [hr]

/-- How many columns right of the origin a column lies, counted round the edge (44_display.md R222). -/
def colOffset (x0 : Fin 64) (col : Fin 64) : Nat := (col.val + 64 - x0.val) % 64

/-- How many rows below the origin a row lies, counted round the edge (44_display.md R222). -/
def rowOffset (y0 : Fin 32) (row : Fin 32) : Nat := (row.val + 32 - y0.val) % 32

theorem colOffset_iff {x0 col : Fin 64} {c : Nat} (hc : c < 64) :
    col = wrap 64 (x0.val + c) ↔ colOffset x0 col = c := by
  unfold colOffset
  rw [Fin.ext_iff, wrap_val]
  have := x0.isLt; have := col.isLt
  omega

theorem rowOffset_iff {y0 row : Fin 32} {r : Nat} (hr : r < 32) :
    row = wrap 32 (y0.val + r) ↔ rowOffset y0 row = r := by
  unfold rowOffset
  rw [Fin.ext_iff, wrap_val]
  have := y0.isLt; have := row.isLt
  omega

/-- The bits of one sprite row that the first `m` columns put on a display column. -/
def rowBits (x0 : Fin 64) (b : Byte) (m : Nat) (col : Fin 64) : Bool :=
  decide (colOffset x0 col < m) && b.getMsbD (colOffset x0 col)

/-- The first `m` columns of a sprite row. -/
def drawCols (p : Canvas) (x0 : Fin 64) (row : Fin 32) (b : Byte) (m : Nat) : Canvas :=
  (List.range m).foldl (fun q c => if b.getMsbD c then Canvas.plot q row (wrap 64 (x0.val + c)) else q) p

theorem drawCols_succ (p : Canvas) (x0 : Fin 64) (row : Fin 32) (b : Byte) (m : Nat) :
    drawCols p x0 row b (m + 1) =
      if b.getMsbD m then Canvas.plot (drawCols p x0 row b m) row (wrap 64 (x0.val + m))
      else drawCols p x0 row b m := by
  simp [drawCols, List.range_succ]

theorem rowBits_succ {x0 col : Fin 64} {b : Byte} {m : Nat} (hm : m < 64) :
    rowBits x0 b (m + 1) col =
      (rowBits x0 b m col ^^ (b.getMsbD m && decide (col = wrap 64 (x0.val + m)))) := by
  simp only [colOffset_iff hm, rowBits]
  rcases Nat.lt_trichotomy (colOffset x0 col) m with h | h | h
  · simp [h, show colOffset x0 col < m + 1 by omega, show colOffset x0 col ≠ m by omega]
  · simp [h]
  · simp [show ¬ colOffset x0 col < m + 1 by omega, show ¬ colOffset x0 col < m by omega,
      show colOffset x0 col ≠ m by omega]

theorem pixel_drawCols (p : Canvas) (x0 : Fin 64) (row : Fin 32) (b : Byte) {m : Nat} (hm : m ≤ 64)
    (r : Fin 32) (c : Fin 64) :
    (drawCols p x0 row b m).1.pixel r c = (p.1.pixel r c ^^ (decide (r = row) && rowBits x0 b m c)) := by
  induction m with
  | zero => simp [drawCols, rowBits]
  | succ m ih =>
    rw [drawCols_succ, rowBits_succ (by omega)]
    split
    · next hb =>
      rw [Canvas.plot, pixel_flip, ih (by omega), hb]
      by_cases hr : r = row <;> simp [hr]
    · next hb => rw [ih (by omega)]; simp [hb]

theorem hit_drawCols (p : Canvas) (x0 : Fin 64) (row : Fin 32) (b : Byte) {m : Nat} (hm : m ≤ 64) :
    (drawCols p x0 row b m).2 = true ↔
      p.2 = true ∨ ∃ col, rowBits x0 b m col = true ∧ p.1.pixel row col = true := by
  induction m with
  | zero => simp [drawCols, rowBits]
  | succ m ih =>
    rw [drawCols_succ]
    have hcol : colOffset x0 (wrap 64 (x0.val + m)) = m := (colOffset_iff (by omega)).1 rfl
    by_cases hb : b.getMsbD m
    · have hnot : rowBits x0 b m (wrap 64 (x0.val + m)) = false := by simp [rowBits, hcol]
      rw [if_pos hb, Canvas.plot]
      simp only [Bool.or_eq_true, ih (by omega), pixel_drawCols p x0 row b (show m ≤ 64 by omega), hnot,
        Bool.and_false, Bool.xor_false]
      constructor
      · rintro ((h | ⟨col, h1, h2⟩) | h)
        · exact .inl h
        · refine .inr ⟨col, ?_, h2⟩
          simp only [rowBits, Bool.and_eq_true, decide_eq_true_eq] at h1 ⊢
          exact ⟨by omega, h1.2⟩
        · refine .inr ⟨_, ?_, h⟩
          simp [rowBits, hcol, hb]
      · rintro (h | ⟨col, h1, h2⟩)
        · exact .inl (.inl h)
        · by_cases he : col = wrap 64 (x0.val + m)
          · exact .inr (he ▸ h2)
          · refine .inl (.inr ⟨col, ?_, h2⟩)
            simpa [rowBits_succ (show m < 64 by omega), he] using h1
    · rw [if_neg hb, ih (by omega)]
      simp [rowBits_succ (show m < 64 by omega), hb]

theorem drawRow_eq (p : Canvas) (x0 : Fin 64) (row : Fin 32) (b : Byte) :
    Canvas.drawRow p x0 row b = drawCols p x0 row b 8 := rfl

/-- The bits a sprite whose rows `bs` begin `r` rows below the origin puts on a pixel. -/
def spriteBits (x0 : Fin 64) (y0 : Fin 32) (r : Nat) (bs : List Byte) (row : Fin 32) (col : Fin 64) : Bool :=
  decide (r ≤ rowOffset y0 row) && decide (rowOffset y0 row < r + bs.length) &&
    rowBits x0 (bs.getD (rowOffset y0 row - r) 0) 8 col

theorem spriteBits_cons {x0 : Fin 64} {y0 row : Fin 32} {r : Nat} {b : Byte} {bs : List Byte} {col : Fin 64} (hr : r < 32) :
    spriteBits x0 y0 r (b :: bs) row col =
      (decide (row = wrap 32 (y0.val + r)) && rowBits x0 b 8 col ^^ spriteBits x0 y0 (r + 1) bs row col) := by
  simp only [rowOffset_iff hr, spriteBits, List.length_cons]
  rcases Nat.lt_trichotomy (rowOffset y0 row) r with h | h | h
  · simp [show ¬ r ≤ rowOffset y0 row by omega, show ¬ r + 1 ≤ rowOffset y0 row by omega,
      show rowOffset y0 row ≠ r by omega]
  · simp [h]
  · obtain ⟨j, hj⟩ : ∃ j, rowOffset y0 row = r + 1 + j := ⟨rowOffset y0 row - (r + 1), by omega⟩
    rw [hj, show r + 1 + j - r = j + 1 by omega, show r + 1 + j - (r + 1) = j by omega, List.getD_cons_succ]
    simp [show r ≤ r + 1 + j by omega, show r + 1 + j ≠ r by omega,
      show r + 1 + j < r + (bs.length + 1) ↔ r + 1 + j < r + 1 + bs.length by omega]

/-- Drawing XORs the sprite onto each pixel (44_display.md R221). -/
theorem pixel_drawRows (bs : List Byte) (p : Canvas) (x0 : Fin 64) (y0 : Fin 32) {r : Nat} (hr : r + bs.length ≤ 32)
    (row : Fin 32) (col : Fin 64) :
    (Canvas.drawRows p x0 y0 r bs).1.pixel row col = (p.1.pixel row col ^^ spriteBits x0 y0 r bs row col) := by
  induction bs generalizing p r with
  | nil =>
    have : ¬ (r ≤ rowOffset y0 row ∧ rowOffset y0 row < r + 0) := by omega
    simp only [Canvas.drawRows, spriteBits, List.length_nil, ← Bool.decide_and, this, decide_false, Bool.false_and,
      Bool.xor_false]
  | cons b bs ih =>
    rw [List.length_cons] at hr
    rw [Canvas.drawRows, ih _ (by omega), drawRow_eq, pixel_drawCols _ _ _ _ (by omega), spriteBits_cons (by omega),
      Bool.xor_assoc]

/-- Drawing reports a collision exactly when a set sprite bit meets a pixel that was lit before the draw (44_display.md R223). -/
theorem hit_drawRows (bs : List Byte) (p : Canvas) (x0 : Fin 64) (y0 : Fin 32) {r : Nat} (hr : r + bs.length ≤ 32) :
    (Canvas.drawRows p x0 y0 r bs).2 = true ↔
      p.2 = true ∨ ∃ row col, spriteBits x0 y0 r bs row col = true ∧ p.1.pixel row col = true := by
  induction bs generalizing p r with
  | nil =>
    simp only [Canvas.drawRows, spriteBits, List.length_nil, iff_self_or, Bool.and_eq_true, decide_eq_true_eq]
    rintro ⟨row, col, h, -⟩
    omega
  | cons b bs ih =>
    rw [List.length_cons] at hr
    rw [Canvas.drawRows, ih _ (by omega), drawRow_eq, hit_drawCols _ _ _ _ (by omega)]
    have hrow : rowOffset y0 (wrap 32 (y0.val + r)) = r := (rowOffset_iff (by omega)).1 rfl
    have hlow : ∀ col, spriteBits x0 y0 (r + 1) bs (wrap 32 (y0.val + r)) col = false := by
      intro col; simp [spriteBits, hrow]
    simp only [pixel_drawCols p x0 _ b (show 8 ≤ 64 by omega)]
    constructor
    · rintro ((h | ⟨col, h1, h2⟩) | ⟨row, col, h1, h2⟩)
      · exact .inl h
      · exact .inr ⟨_, col, by simp [spriteBits_cons (show r < 32 by omega), h1, hlow], h2⟩
      · have hne : row ≠ wrap 32 (y0.val + r) := fun e => by rw [e, hlow] at h1; cases h1
        refine .inr ⟨row, col, by simp [spriteBits_cons (show r < 32 by omega), h1, hne], ?_⟩
        simpa [hne] using h2
    · rintro (h | ⟨row, col, h1, h2⟩)
      · exact .inl (.inl h)
      · by_cases he : row = wrap 32 (y0.val + r)
        · subst he
          refine .inl (.inr ⟨col, ?_, h2⟩)
          simpa [spriteBits_cons (show r < 32 by omega), hlow] using h1
        · refine .inr ⟨row, col, ?_, by simpa [he] using h2⟩
          simpa [spriteBits_cons (show r < 32 by omega), he] using h1

/-- The sprite of an instruction, as the loops see it and as 44_display.md R221 says it. -/
theorem spriteBits_eq (s : State) (x y : Reg) (n : Nat) (row : Fin 32) (col : Fin 64) :
    spriteBits (s.originCol x) (s.originRow y) 0 (s.mem.readBytes (s.ea 0) n) row col = spriteBit s x y n row col := by
  have hr : rowOffset (s.originRow y) row = (row.val + 32 - (s.getV y).toNat % 32) % 32 := rfl
  have hc : colOffset (s.originCol x) col = (col.val + 64 - (s.getV x).toNat % 64) % 64 := rfl
  simp only [spriteBits, spriteBit, length_readBytes, Nat.zero_le, decide_true, Bool.true_and, Nat.zero_add, Nat.sub_zero,
    rowBits, hr, hc]
  by_cases h : (row.val + 32 - (s.getV y).toNat % 32) % 32 < n
  · rw [getD_readBytes _ _ _ _ h]
    by_cases h8 : (col.val + 64 - (s.getV x).toNat % 64) % 64 < 8
    · simp only [h, h8, decide_true, Bool.true_and, BitVec.getMsbD, State.ea, Nat.add_zero]
    · simp [h8]
  · simp [h]

end Sys2Proof.Machine
end

