-- ==== Sys2Proof/Laws/Encoding.lean ====
section
/-!
SUPPORT. Sys2Proof/Laws/Encoding.lean: the fields read back from a word that is laid out by a format of 30_encoding.md R102, and a
word's number from its fields.
-/
namespace Sys2Proof

variable (f s : BitVec 4) (x y : Reg) (nn : Byte) (nnn : Addr)

/-- The number of two fields side by side. -/
theorem toNat_append_add {m n : Nat} (a : BitVec m) (b : BitVec n) : (a ++ b).toNat = a.toNat * 2 ^ n + b.toNat := by
  rw [BitVec.toNat_append, Nat.shiftLeft_eq, Nat.mul_comm, Nat.two_pow_add_eq_or_of_lt b.isLt]

@[simp] theorem regField_toNat : (regField x).toNat = x.val := rfl

theorem opX_val (op : Word) : (opX op).val = (op.extractLsb' 8 4).toNat := rfl

theorem opY_val (op : Word) : (opY op).val = (op.extractLsb' 4 4).toNat := rfl

/-! ## Format NNN -/

@[simp] theorem opFamily_nnn : opFamily (f ++ nnn) = f := by
  apply BitVec.eq_of_toNat_eq
  simp only [opFamily, BitVec.extractLsb'_toNat, toNat_append_add, Nat.shiftRight_eq_div_pow]
  have := f.isLt; have := nnn.isLt; omega

@[simp] theorem opNNN_nnn : opNNN (f ++ nnn) = nnn := by
  apply BitVec.eq_of_toNat_eq
  simp only [opNNN, BitVec.extractLsb'_toNat, toNat_append_add, Nat.shiftRight_eq_div_pow]
  have := f.isLt; have := nnn.isLt; omega

/-! ## Formats XNN and XSS -/

@[simp] theorem opFamily_xnn : opFamily (f ++ regField x ++ nn) = f := by
  apply BitVec.eq_of_toNat_eq
  simp only [opFamily, BitVec.extractLsb'_toNat, toNat_append_add, Nat.shiftRight_eq_div_pow, regField_toNat]
  have := f.isLt; have := nn.isLt; have := x.isLt; omega

@[simp] theorem opX_xnn : opX (f ++ regField x ++ nn) = x := by
  apply Fin.ext
  simp only [opX_val, BitVec.extractLsb'_toNat, toNat_append_add, Nat.shiftRight_eq_div_pow, regField_toNat]
  have := f.isLt; have := nn.isLt; have := x.isLt; omega

@[simp] theorem opNN_xnn : opNN (f ++ regField x ++ nn) = nn := by
  apply BitVec.eq_of_toNat_eq
  simp only [opNN, BitVec.extractLsb'_toNat, toNat_append_add, Nat.shiftRight_eq_div_pow, regField_toNat]
  have := f.isLt; have := nn.isLt; have := x.isLt; omega

/-! ## Formats XYS and XYN -/

@[simp] theorem opFamily_xyn : opFamily (f ++ regField x ++ regField y ++ s) = f := by
  apply BitVec.eq_of_toNat_eq
  simp only [opFamily, BitVec.extractLsb'_toNat, toNat_append_add, Nat.shiftRight_eq_div_pow, regField_toNat]
  have := f.isLt; have := s.isLt; have := x.isLt; have := y.isLt; omega

@[simp] theorem opX_xyn : opX (f ++ regField x ++ regField y ++ s) = x := by
  apply Fin.ext
  simp only [opX_val, BitVec.extractLsb'_toNat, toNat_append_add, Nat.shiftRight_eq_div_pow, regField_toNat]
  have := f.isLt; have := s.isLt; have := x.isLt; have := y.isLt; omega

@[simp] theorem opY_xyn : opY (f ++ regField x ++ regField y ++ s) = y := by
  apply Fin.ext
  simp only [opY_val, BitVec.extractLsb'_toNat, toNat_append_add, Nat.shiftRight_eq_div_pow, regField_toNat]
  have := f.isLt; have := s.isLt; have := x.isLt; have := y.isLt; omega

@[simp] theorem opN_xyn : opN (f ++ regField x ++ regField y ++ s) = s := by
  apply BitVec.eq_of_toNat_eq
  simp only [opN, BitVec.extractLsb'_toNat, toNat_append_add, Nat.shiftRight_eq_div_pow, regField_toNat]
  have := f.isLt; have := s.isLt; have := x.isLt; have := y.isLt; omega

/-! ## The number of a word -/

theorem toNat_nnn : (f ++ nnn : Word).toNat = f.toNat * 0x1000 + nnn.toNat := toNat_append_add f nnn

theorem toNat_xnn : (f ++ regField x ++ nn : Word).toNat = f.toNat * 0x1000 + x.val * 0x100 + nn.toNat := by
  rw [toNat_append_add, toNat_append_add, regField_toNat]; omega

theorem toNat_xyn : (f ++ regField x ++ regField y ++ s : Word).toNat =
    f.toNat * 0x1000 + x.val * 0x100 + y.val * 0x10 + s.toNat := by
  rw [toNat_append_add, toNat_append_add, toNat_append_add, regField_toNat, regField_toNat]; omega

end Sys2Proof
end

