-- ==== Sys2Proof/Laws/Step.lean ====
section
/-!
SUPPORT. Sys2Proof/Laws/Step.lean: the four things a step can be, as equations and as one inversion lemma (40_step_cycle.md R130).
-/
namespace Sys2Proof.Machine

/-- A step that completes ticks the timers unless the instruction faulted (40_step_cycle.md R134). -/
def State.afterStep (u : State) : State := if u.halted then u else u.tick

@[simp] theorem completeStep_next (u : State) : completeStep (.next u) = .next u.afterStep := rfl

theorem completeStep_eq_next {r : Result} {t : State} (h : completeStep r = .next t) :
    ∃ u, r = .next u ∧ t = u.afterStep := by
  cases r with
  | next u => exact ⟨u, rfl, by injection h with h; exact h.symm⟩
  | fault r => cases h
  | refused r => cases h

/-- A halted block does nothing (40_step_cycle.md R139). -/
theorem step_halted {s : State} (h : s.halted = true) : step s = .next s := by simp [step, cycle, h]

/-- A fetch past 0x0FFE faults (40_step_cycle.md R131). -/
theorem step_fetchFault {s : State} (h : s.halted = false) (hpc : 0x0FFE < s.pc.toNat) : step s = .next s.fetchFault := by
  simp [step, cycle, h, show Config.lastFetch < s.pc.toNat from hpc]

/-- A step runs the instruction its word decodes to (40_step_cycle.md R132, R133). -/
theorem step_instr {s : State} {i : Instr} (h : s.halted = false) (hpc : s.pc.toNat ≤ 0x0FFE)
    (hd : decodeWord s.params.decode s.opcode = some i) : step s = completeStep (exec i s) := by
  simp [step, cycle, h, show ¬ Config.lastFetch < s.pc.toNat from Nat.not_lt.2 hpc, hd]

/-- A step whose word decodes to nothing takes the unknown-opcode path (40_step_cycle.md R136). -/
theorem step_unknown {s : State} (h : s.halted = false) (hpc : s.pc.toNat ≤ 0x0FFE)
    (hd : decodeWord s.params.decode s.opcode = none) : step s = completeStep (unknownOpcode s) := by
  simp [step, cycle, h, show ¬ Config.lastFetch < s.pc.toNat from Nat.not_lt.2 hpc, hd]

/-- Everything a step can do. -/
theorem step_cases {s t : State} (h : step s = .next t) :
    (s.halted = true ∧ t = s) ∨
    (s.halted = false ∧ 0x0FFE < s.pc.toNat ∧ t = s.fetchFault) ∨
    (s.halted = false ∧ s.pc.toNat ≤ 0x0FFE ∧
      ∃ i u, decodeWord s.params.decode s.opcode = some i ∧ exec i s = .next u ∧ t = u.afterStep) ∨
    (s.halted = false ∧ s.pc.toNat ≤ 0x0FFE ∧
      ∃ u, decodeWord s.params.decode s.opcode = none ∧ unknownOpcode s = .next u ∧ t = u.afterStep) := by
  by_cases hh : s.halted = true
  · rw [step_halted hh] at h
    exact .inl ⟨hh, by injection h with h; exact h.symm⟩
  · have hh : s.halted = false := by simpa using hh
    by_cases hpc : 0x0FFE < s.pc.toNat
    · rw [step_fetchFault hh hpc] at h
      exact .inr (.inl ⟨hh, hpc, by injection h with h; exact h.symm⟩)
    · have hpc : s.pc.toNat ≤ 0x0FFE := Nat.not_lt.1 hpc
      cases hd : decodeWord s.params.decode s.opcode with
      | some i =>
        rw [step_instr hh hpc hd] at h
        obtain ⟨u, hu, ht⟩ := completeStep_eq_next h
        exact .inr (.inr (.inl ⟨hh, hpc, i, u, rfl, hu, ht⟩))
      | none =>
        rw [step_unknown hh hpc hd] at h
        obtain ⟨u, hu, ht⟩ := completeStep_eq_next h
        exact .inr (.inr (.inr ⟨hh, hpc, u, rfl, hu, ht⟩))

/-- The unknown-opcode path answers one of the three policies (40_step_cycle.md R136). -/
theorem unknownOpcode_cases {s u : State} (h : unknownOpcode s = .next u) :
    (s.params.unknownOpcode = .stall ∧ u = s.report) ∨ (s.params.unknownOpcode = .skip ∧ u = s.report.advance) ∨
    (s.params.unknownOpcode = .fault ∧ u = s.raise .unknownOpcode 0) := by
  unfold unknownOpcode at h
  cases hp : s.params.unknownOpcode <;> rw [hp] at h <;> injection h with h
  · exact .inl ⟨rfl, h.symm⟩
  · exact .inr (.inl ⟨rfl, h.symm⟩)
  · exact .inr (.inr ⟨rfl, h.symm⟩)

/-- The countdown in numbers: minus 1 with floor at 0 (40_step_cycle.md R134). -/
theorem countdown_toNat (b : Byte) : (countdown b).toNat = b.toNat - 1 := by
  unfold countdown
  split
  · next h => rw [h]; rfl
  · next h =>
    have : b.toNat ≠ 0 := fun e => h (BitVec.eq_of_toNat_eq e)
    have := b.isLt
    rw [BitVec.toNat_sub]
    simp only [BitVec.reduceToNat]
    omega

/-- A placed word is what the next step runs, from every state (log entry 11). -/
theorem step_withFetchWord (s : State) (w : Nat) {i : Instr}
    (hd : decodeWord s.params.decode (BitVec.ofNat 16 (w % 2 ^ 16)) = some i) :
    step (s.withFetchWord 16 w) = completeStep (exec i (s.withFetchWord 16 w)) := by
  refine step_instr rfl ?_ ?_
  · show (if Config.lastFetch < s.pc.toNat then BitVec.ofNat 16 Config.progBase else s.pc).toNat ≤ 0x0FFE
    split
    · decide
    · next h => exact Nat.not_lt.1 h
  · rw [State.withFetchWord, opcode_placeWord]; exact hd

end Sys2Proof.Machine
end

