-- ==== Sys2Proof/Laws/Frame.lean ====
section
/-!
SUPPORT. Sys2Proof/Laws/Frame.lean: how frames combine, and the frame of each named update of the state.
-/
namespace Sys2Proof.Machine

theorem Part.Same.refl (s : State) (p : Part) : p.Same s s := by cases p <;> rfl

theorem Part.Same.trans {s t u : State} {p : Part} (h : p.Same s t) (h' : p.Same t u) : p.Same s u := by
  cases p <;> exact Eq.trans h' h

theorem Frame.refl (c : Part → Prop) (s : State) : Frame c s s := fun p _ => Part.Same.refl s p

/-- A frame that allows more changes. -/
theorem Frame.mono {c d : Part → Prop} {s t : State} (h : Frame c s t) (hcd : ∀ p, c p → d p) : Frame d s t :=
  fun p hp => h p fun hc => hp (hcd p hc)

/-- Two updates one after another change what either changes. -/
theorem Frame.trans {c d : Part → Prop} {s t u : State} (h : Frame c s t) (h' : Frame d t u) :
    Frame (fun p => c p ∨ d p) s u :=
  fun p hp => (h p fun hc => hp (.inl hc)).trans (h' p fun hd => hp (.inr hd))

theorem frame_setPc (s : State) (w : Word) : Frame (fun p => p = .pc) s (s.setPc w) := by
  intro p hp; cases p <;> first | rfl | exact absurd rfl hp

theorem frame_setI (s : State) (w : Word) : Frame (fun p => p = .i) s (s.setI w) := by
  intro p hp; cases p <;> first | rfl | exact absurd rfl hp

theorem frame_setDt (s : State) (b : Byte) : Frame (fun p => p = .dt) s (s.setDt b) := by
  intro p hp; cases p <;> first | rfl | exact absurd rfl hp

theorem frame_setSt (s : State) (b : Byte) : Frame (fun p => p = .st) s (s.setSt b) := by
  intro p hp; cases p <;> first | rfl | exact absurd rfl hp

theorem frame_pop (s : State) : Frame (fun p => p = .sp) s s.pop := by
  intro p hp; cases p <;> first | rfl | exact absurd rfl hp

theorem frame_afterDraw (s : State) : Frame (fun p => p = .draws ∨ p = .randomIn) s s.afterDraw := by
  intro p hp; cases p <;> first | rfl | exact absurd (by simp) hp

theorem frame_setV (s : State) (x : Reg) (b : Byte) : Frame (fun p => p = .v x) s (s.setV x b) := by
  intro p hp
  cases p with
  | v k => exact getV_setV_ne s (fun e => hp (by rw [e])) b
  | _ => rfl

theorem frame_push (s : State) (w : Word) (k : Fin 16) (hk : k.val = s.sp.val) :
    Frame (fun p => p = .sp ∨ p = .stack k) s (s.push w) := by
  intro p hp
  cases p with
  | stack j =>
    have hne : j ≠ wrap 16 s.sp.val := by
      rw [← hk, wrap_self]; exact fun e => hp (.inr (by rw [e]))
    show (s.push w).stack.get j = s.stack.get j
    rw [push_stack_get, if_neg hne]
  | sp => exact absurd (.inl rfl) hp
  | _ => rfl

/-- A new display changes the pixels in which it differs. -/
theorem frame_setDisplay (s : State) (d : Display) (c : Fin 32 → Fin 64 → Prop)
    (h : ∀ row col, ¬ c row col → d.pixel row col = s.display.pixel row col) :
    Frame (fun p => ∃ row col, p = .pixel row col ∧ c row col) s (s.setDisplay d) := by
  intro p hp
  cases p with
  | pixel row col => exact h row col fun hc => hp ⟨row, col, rfl, hc⟩
  | _ => rfl

/-- The normal increment changes pc alone. -/
theorem frame_advance (s : State) : Frame (fun p => p = .pc) s s.advance := frame_setPc s _

/-- A block load changes the registers it loads (43_index_memory.md R205). -/
theorem frame_loadBlock (s : State) (n : Nat) (hn : n ≤ 16) :
    Frame (fun p => ∃ k : Reg, k.val < n ∧ p = .v k) s (s.loadBlock n) := by
  intro p hp
  cases p with
  | v k =>
    show (s.loadBlock n).getV k = s.getV k
    rw [getV_loadBlock s n hn, if_neg fun h => hp ⟨k, h, rfl⟩]
  | _ => rw [loadBlock_eq]; rfl

/-- A block of stores changes the bytes at its addresses, where they land (20_memory.md R76, R77). -/
theorem frame_storeBytes (bs : List Byte) (s : State) (a : Nat) :
    Frame (fun p => ∃ k, k < bs.length ∧ p = .memory (a + k) ∧ WriteLands s (a + k)) s (s.storeBytes a bs) := by
  intro p hp
  cases p with
  | memory j =>
    show (s.storeBytes a bs).mem.read j = s.mem.read j
    rw [read_storeBytes, if_neg]
    rintro ⟨hj, hl⟩
    have e : a + (j - a) = j := by omega
    refine hp ⟨j - a, by omega, by rw [e], ?_⟩
    rw [e]
    exact fun h => hl ⟨Nat.lt_succ_of_le h.1, h.2⟩
  | _ => rw [storeBytes_eq]; rfl

end Sys2Proof.Machine
end

