-- ==== Sys2Proof/Laws/PerInstr.lean ====
section
/-!
SUPPORT. Sys2Proof/Laws/PerInstr.lean: two facts about every instruction as syntax, one lemma a constructor: its fields fit their
bits (30_encoding.md R101), and its word carries the family nibble that the opcode map routes on (R105).
-/
namespace Sys2Proof.Laws

/-- Every field of the instruction fits its bits (30_encoding.md R101). -/
def WellFormed.Statement (i : Instr) : Prop := i.wf = true

/-- The family nibble of an instruction (30_encoding.md R105). -/
def familyOf : Instr → BitVec 4
  | .cls => 0x0
  | .ret => 0x0
  | .jpNnn _ => 0x1
  | .callNnn _ => 0x2
  | .seVxNn _ _ => 0x3
  | .sneVxNn _ _ => 0x4
  | .seVxVy _ _ => 0x5
  | .ldVxNn _ _ => 0x6
  | .addVxNn _ _ => 0x7
  | .ldVxVy _ _ => 0x8
  | .orVxVy _ _ => 0x8
  | .andVxVy _ _ => 0x8
  | .xorVxVy _ _ => 0x8
  | .addVxVy _ _ => 0x8
  | .subVxVy _ _ => 0x8
  | .shrVx _ _ => 0x8
  | .subnVxVy _ _ => 0x8
  | .shlVx _ _ => 0x8
  | .sneVxVy _ _ => 0x9
  | .ldINnn _ => 0xA
  | .jpV0Nnn _ => 0xB
  | .rndVxNn _ _ => 0xC
  | .drwVxVyN _ _ _ => 0xD
  | .skpVx _ => 0xE
  | .sknpVx _ => 0xE
  | .ldVxDt _ => 0xF
  | .ldVxK _ => 0xF
  | .ldDtVx _ => 0xF
  | .ldStVx _ => 0xF
  | .addIVx _ => 0xF
  | .ldFVx _ => 0xF
  | .ldBVx _ => 0xF
  | .ldMemVx _ => 0xF
  | .ldVxMem _ => 0xF

/-- The instruction's word has the instruction's family nibble (30_encoding.md R105). -/
def FamilyNibble.Statement (i : Instr) : Prop := opFamily (encode i) = familyOf i

/-! ## WellFormed -/

theorem WellFormed.cls : WellFormed.Statement .cls := by
  simp [WellFormed.Statement, Instr.wf, Instr.fields, Fields.wf]

theorem WellFormed.ret : WellFormed.Statement .ret := by
  simp [WellFormed.Statement, Instr.wf, Instr.fields, Fields.wf]

theorem WellFormed.jpNnn (nnn : Addr) : WellFormed.Statement (.jpNnn nnn) := by
  simp [WellFormed.Statement, Instr.wf, Instr.fields, Fields.wf, nnn.isLt]

theorem WellFormed.callNnn (nnn : Addr) : WellFormed.Statement (.callNnn nnn) := by
  simp [WellFormed.Statement, Instr.wf, Instr.fields, Fields.wf, nnn.isLt]

theorem WellFormed.seVxNn (x : Reg) (nn : Byte) : WellFormed.Statement (.seVxNn x nn) := by
  simp [WellFormed.Statement, Instr.wf, Instr.fields, Fields.wf, x.isLt, nn.isLt]

theorem WellFormed.sneVxNn (x : Reg) (nn : Byte) : WellFormed.Statement (.sneVxNn x nn) := by
  simp [WellFormed.Statement, Instr.wf, Instr.fields, Fields.wf, x.isLt, nn.isLt]

theorem WellFormed.seVxVy (x : Reg) (y : Reg) : WellFormed.Statement (.seVxVy x y) := by
  simp [WellFormed.Statement, Instr.wf, Instr.fields, Fields.wf, x.isLt, y.isLt]

theorem WellFormed.ldVxNn (x : Reg) (nn : Byte) : WellFormed.Statement (.ldVxNn x nn) := by
  simp [WellFormed.Statement, Instr.wf, Instr.fields, Fields.wf, x.isLt, nn.isLt]

theorem WellFormed.addVxNn (x : Reg) (nn : Byte) : WellFormed.Statement (.addVxNn x nn) := by
  simp [WellFormed.Statement, Instr.wf, Instr.fields, Fields.wf, x.isLt, nn.isLt]

theorem WellFormed.ldVxVy (x : Reg) (y : Reg) : WellFormed.Statement (.ldVxVy x y) := by
  simp [WellFormed.Statement, Instr.wf, Instr.fields, Fields.wf, x.isLt, y.isLt]

theorem WellFormed.orVxVy (x : Reg) (y : Reg) : WellFormed.Statement (.orVxVy x y) := by
  simp [WellFormed.Statement, Instr.wf, Instr.fields, Fields.wf, x.isLt, y.isLt]

theorem WellFormed.andVxVy (x : Reg) (y : Reg) : WellFormed.Statement (.andVxVy x y) := by
  simp [WellFormed.Statement, Instr.wf, Instr.fields, Fields.wf, x.isLt, y.isLt]

theorem WellFormed.xorVxVy (x : Reg) (y : Reg) : WellFormed.Statement (.xorVxVy x y) := by
  simp [WellFormed.Statement, Instr.wf, Instr.fields, Fields.wf, x.isLt, y.isLt]

theorem WellFormed.addVxVy (x : Reg) (y : Reg) : WellFormed.Statement (.addVxVy x y) := by
  simp [WellFormed.Statement, Instr.wf, Instr.fields, Fields.wf, x.isLt, y.isLt]

theorem WellFormed.subVxVy (x : Reg) (y : Reg) : WellFormed.Statement (.subVxVy x y) := by
  simp [WellFormed.Statement, Instr.wf, Instr.fields, Fields.wf, x.isLt, y.isLt]

theorem WellFormed.shrVx (x : Reg) (y : Reg) : WellFormed.Statement (.shrVx x y) := by
  simp [WellFormed.Statement, Instr.wf, Instr.fields, Fields.wf, x.isLt, y.isLt]

theorem WellFormed.subnVxVy (x : Reg) (y : Reg) : WellFormed.Statement (.subnVxVy x y) := by
  simp [WellFormed.Statement, Instr.wf, Instr.fields, Fields.wf, x.isLt, y.isLt]

theorem WellFormed.shlVx (x : Reg) (y : Reg) : WellFormed.Statement (.shlVx x y) := by
  simp [WellFormed.Statement, Instr.wf, Instr.fields, Fields.wf, x.isLt, y.isLt]

theorem WellFormed.sneVxVy (x : Reg) (y : Reg) : WellFormed.Statement (.sneVxVy x y) := by
  simp [WellFormed.Statement, Instr.wf, Instr.fields, Fields.wf, x.isLt, y.isLt]

theorem WellFormed.ldINnn (nnn : Addr) : WellFormed.Statement (.ldINnn nnn) := by
  simp [WellFormed.Statement, Instr.wf, Instr.fields, Fields.wf, nnn.isLt]

theorem WellFormed.jpV0Nnn (nnn : Addr) : WellFormed.Statement (.jpV0Nnn nnn) := by
  simp [WellFormed.Statement, Instr.wf, Instr.fields, Fields.wf, nnn.isLt]

theorem WellFormed.rndVxNn (x : Reg) (nn : Byte) : WellFormed.Statement (.rndVxNn x nn) := by
  simp [WellFormed.Statement, Instr.wf, Instr.fields, Fields.wf, x.isLt, nn.isLt]

theorem WellFormed.drwVxVyN (x : Reg) (y : Reg) (n : BitVec 4) : WellFormed.Statement (.drwVxVyN x y n) := by
  simp [WellFormed.Statement, Instr.wf, Instr.fields, Fields.wf, x.isLt, y.isLt, n.isLt]

theorem WellFormed.skpVx (x : Reg) : WellFormed.Statement (.skpVx x) := by
  simp [WellFormed.Statement, Instr.wf, Instr.fields, Fields.wf, x.isLt]

theorem WellFormed.sknpVx (x : Reg) : WellFormed.Statement (.sknpVx x) := by
  simp [WellFormed.Statement, Instr.wf, Instr.fields, Fields.wf, x.isLt]

theorem WellFormed.ldVxDt (x : Reg) : WellFormed.Statement (.ldVxDt x) := by
  simp [WellFormed.Statement, Instr.wf, Instr.fields, Fields.wf, x.isLt]

theorem WellFormed.ldVxK (x : Reg) : WellFormed.Statement (.ldVxK x) := by
  simp [WellFormed.Statement, Instr.wf, Instr.fields, Fields.wf, x.isLt]

theorem WellFormed.ldDtVx (x : Reg) : WellFormed.Statement (.ldDtVx x) := by
  simp [WellFormed.Statement, Instr.wf, Instr.fields, Fields.wf, x.isLt]

theorem WellFormed.ldStVx (x : Reg) : WellFormed.Statement (.ldStVx x) := by
  simp [WellFormed.Statement, Instr.wf, Instr.fields, Fields.wf, x.isLt]

theorem WellFormed.addIVx (x : Reg) : WellFormed.Statement (.addIVx x) := by
  simp [WellFormed.Statement, Instr.wf, Instr.fields, Fields.wf, x.isLt]

theorem WellFormed.ldFVx (x : Reg) : WellFormed.Statement (.ldFVx x) := by
  simp [WellFormed.Statement, Instr.wf, Instr.fields, Fields.wf, x.isLt]

theorem WellFormed.ldBVx (x : Reg) : WellFormed.Statement (.ldBVx x) := by
  simp [WellFormed.Statement, Instr.wf, Instr.fields, Fields.wf, x.isLt]

theorem WellFormed.ldMemVx (x : Reg) : WellFormed.Statement (.ldMemVx x) := by
  simp [WellFormed.Statement, Instr.wf, Instr.fields, Fields.wf, x.isLt]

theorem WellFormed.ldVxMem (x : Reg) : WellFormed.Statement (.ldVxMem x) := by
  simp [WellFormed.Statement, Instr.wf, Instr.fields, Fields.wf, x.isLt]

/-! ## FamilyNibble -/

theorem FamilyNibble.cls : FamilyNibble.Statement .cls := by unfold FamilyNibble.Statement; decide

theorem FamilyNibble.ret : FamilyNibble.Statement .ret := by unfold FamilyNibble.Statement; decide

theorem FamilyNibble.jpNnn (nnn : Addr) : FamilyNibble.Statement (.jpNnn nnn) := opFamily_nnn _ _

theorem FamilyNibble.callNnn (nnn : Addr) : FamilyNibble.Statement (.callNnn nnn) := opFamily_nnn _ _

theorem FamilyNibble.seVxNn (x : Reg) (nn : Byte) : FamilyNibble.Statement (.seVxNn x nn) := opFamily_xnn _ _ _

theorem FamilyNibble.sneVxNn (x : Reg) (nn : Byte) : FamilyNibble.Statement (.sneVxNn x nn) := opFamily_xnn _ _ _

theorem FamilyNibble.seVxVy (x : Reg) (y : Reg) : FamilyNibble.Statement (.seVxVy x y) := opFamily_xyn _ _ _ _

theorem FamilyNibble.ldVxNn (x : Reg) (nn : Byte) : FamilyNibble.Statement (.ldVxNn x nn) := opFamily_xnn _ _ _

theorem FamilyNibble.addVxNn (x : Reg) (nn : Byte) : FamilyNibble.Statement (.addVxNn x nn) := opFamily_xnn _ _ _

theorem FamilyNibble.ldVxVy (x : Reg) (y : Reg) : FamilyNibble.Statement (.ldVxVy x y) := opFamily_xyn _ _ _ _

theorem FamilyNibble.orVxVy (x : Reg) (y : Reg) : FamilyNibble.Statement (.orVxVy x y) := opFamily_xyn _ _ _ _

theorem FamilyNibble.andVxVy (x : Reg) (y : Reg) : FamilyNibble.Statement (.andVxVy x y) := opFamily_xyn _ _ _ _

theorem FamilyNibble.xorVxVy (x : Reg) (y : Reg) : FamilyNibble.Statement (.xorVxVy x y) := opFamily_xyn _ _ _ _

theorem FamilyNibble.addVxVy (x : Reg) (y : Reg) : FamilyNibble.Statement (.addVxVy x y) := opFamily_xyn _ _ _ _

theorem FamilyNibble.subVxVy (x : Reg) (y : Reg) : FamilyNibble.Statement (.subVxVy x y) := opFamily_xyn _ _ _ _

theorem FamilyNibble.shrVx (x : Reg) (y : Reg) : FamilyNibble.Statement (.shrVx x y) := opFamily_xyn _ _ _ _

theorem FamilyNibble.subnVxVy (x : Reg) (y : Reg) : FamilyNibble.Statement (.subnVxVy x y) := opFamily_xyn _ _ _ _

theorem FamilyNibble.shlVx (x : Reg) (y : Reg) : FamilyNibble.Statement (.shlVx x y) := opFamily_xyn _ _ _ _

theorem FamilyNibble.sneVxVy (x : Reg) (y : Reg) : FamilyNibble.Statement (.sneVxVy x y) := opFamily_xyn _ _ _ _

theorem FamilyNibble.ldINnn (nnn : Addr) : FamilyNibble.Statement (.ldINnn nnn) := opFamily_nnn _ _

theorem FamilyNibble.jpV0Nnn (nnn : Addr) : FamilyNibble.Statement (.jpV0Nnn nnn) := opFamily_nnn _ _

theorem FamilyNibble.rndVxNn (x : Reg) (nn : Byte) : FamilyNibble.Statement (.rndVxNn x nn) := opFamily_xnn _ _ _

theorem FamilyNibble.drwVxVyN (x : Reg) (y : Reg) (n : BitVec 4) : FamilyNibble.Statement (.drwVxVyN x y n) := opFamily_xyn _ _ _ _

theorem FamilyNibble.skpVx (x : Reg) : FamilyNibble.Statement (.skpVx x) := opFamily_xnn _ _ _

theorem FamilyNibble.sknpVx (x : Reg) : FamilyNibble.Statement (.sknpVx x) := opFamily_xnn _ _ _

theorem FamilyNibble.ldVxDt (x : Reg) : FamilyNibble.Statement (.ldVxDt x) := opFamily_xnn _ _ _

theorem FamilyNibble.ldVxK (x : Reg) : FamilyNibble.Statement (.ldVxK x) := opFamily_xnn _ _ _

theorem FamilyNibble.ldDtVx (x : Reg) : FamilyNibble.Statement (.ldDtVx x) := opFamily_xnn _ _ _

theorem FamilyNibble.ldStVx (x : Reg) : FamilyNibble.Statement (.ldStVx x) := opFamily_xnn _ _ _

theorem FamilyNibble.addIVx (x : Reg) : FamilyNibble.Statement (.addIVx x) := opFamily_xnn _ _ _

theorem FamilyNibble.ldFVx (x : Reg) : FamilyNibble.Statement (.ldFVx x) := opFamily_xnn _ _ _

theorem FamilyNibble.ldBVx (x : Reg) : FamilyNibble.Statement (.ldBVx x) := opFamily_xnn _ _ _

theorem FamilyNibble.ldMemVx (x : Reg) : FamilyNibble.Statement (.ldMemVx x) := opFamily_xnn _ _ _

theorem FamilyNibble.ldVxMem (x : Reg) : FamilyNibble.Statement (.ldVxMem x) := opFamily_xnn _ _ _

end Sys2Proof.Laws
end

