-- ==== Sys2Proof/Tests/Slice0.lean ====
section
/-!
SUPPORT. Sys2Proof/Tests/Slice0.lean: the package's own tests. The expected results are the vectors of 95_test_vectors.md (their ids
are in the comments) and words written out from 30_encoding.md; none comes from running the model. The last part gives, for each
obligation with hypotheses, concrete states and operands that meet them.
-/
namespace Sys2Proof.Tests
open Sys2Proof Sys2Proof.Machine
open Sys2Proof.Config (DecodeMode)

/-! ## Well-formedness: each check refuses a number that does not fit its field -/

theorem test_wf_refuses_x : Fields.wf { x := 16 } = false := by decide
theorem test_wf_refuses_y : Fields.wf { y := 16 } = false := by decide
theorem test_wf_refuses_n : Fields.wf { n := 16 } = false := by decide
theorem test_wf_refuses_nn : Fields.wf { nn := 256 } = false := by decide
theorem test_wf_refuses_nnn : Fields.wf { nnn := 4096 } = false := by decide
theorem test_wf_accepts_largest : Fields.wf { x := 15, y := 15, n := 15, nn := 255, nnn := 4095 } = true := by decide
theorem test_wf_instr : (Instr.drwVxVyN 15 15 15).wf = true ∧ (Instr.jpNnn 0xFFF).wf = true := by decide

/-! ## Decoding: words written out from the patterns of 30_encoding.md R102 and R105 -/

theorem test_decode_family_0 :
    decodeWord .strict 0b0000000011100000#16 = some .cls ∧ decodeWord .strict 0b0000000011101110#16 = some .ret := by decide

theorem test_decode_families_1_to_4 :
    decodeWord .strict 0b0001101010111100#16 = some (.jpNnn 0xABC) ∧
    decodeWord .strict 0b0010010000000000#16 = some (.callNnn 0x400) ∧
    decodeWord .strict 0b0011001101000010#16 = some (.seVxNn 3 0x42) ∧
    decodeWord .strict 0b0100001101000010#16 = some (.sneVxNn 3 0x42) := by decide

theorem test_decode_families_5_to_7 :
    decodeWord .strict 0b0101000100100000#16 = some (.seVxVy 1 2) ∧
    decodeWord .strict 0b0110101010011100#16 = some (.ldVxNn 0xA 0x9C) ∧
    decodeWord .strict 0b0111111100000001#16 = some (.addVxNn 0xF 0x01) := by decide

theorem test_decode_family_8 :
    decodeWord .strict 0b1000001111110000#16 = some (.ldVxVy 3 0xF) ∧
    decodeWord .strict 0b1000001111110001#16 = some (.orVxVy 3 0xF) ∧
    decodeWord .strict 0b1000001111110010#16 = some (.andVxVy 3 0xF) ∧
    decodeWord .strict 0b1000001111110011#16 = some (.xorVxVy 3 0xF) ∧
    decodeWord .strict 0b1000001111110100#16 = some (.addVxVy 3 0xF) ∧
    decodeWord .strict 0b1000001111110101#16 = some (.subVxVy 3 0xF) ∧
    decodeWord .strict 0b1000001111110110#16 = some (.shrVx 3 0xF) ∧
    decodeWord .strict 0b1000001111110111#16 = some (.subnVxVy 3 0xF) ∧
    decodeWord .strict 0b1000001111111110#16 = some (.shlVx 3 0xF) := by decide

theorem test_decode_families_9_to_D :
    decodeWord .strict 0b1001000100100000#16 = some (.sneVxVy 1 2) ∧
    decodeWord .strict 0b1010001011110000#16 = some (.ldINnn 0x2F0) ∧
    decodeWord .strict 0b1011001100000000#16 = some (.jpV0Nnn 0x300) ∧
    decodeWord .strict 0b1100001100001111#16 = some (.rndVxNn 3 0x0F) ∧
    decodeWord .strict 0b1101000100100101#16 = some (.drwVxVyN 1 2 5) := by decide

theorem test_decode_family_E :
    decodeWord .strict 0b1110010010011110#16 = some (.skpVx 4) ∧
    decodeWord .strict 0b1110010010100001#16 = some (.sknpVx 4) := by decide

theorem test_decode_family_F :
    decodeWord .strict 0b1111001000000111#16 = some (.ldVxDt 2) ∧
    decodeWord .strict 0b1111001000001010#16 = some (.ldVxK 2) ∧
    decodeWord .strict 0b1111001000010101#16 = some (.ldDtVx 2) ∧
    decodeWord .strict 0b1111001000011000#16 = some (.ldStVx 2) ∧
    decodeWord .strict 0b1111001000011110#16 = some (.addIVx 2) ∧
    decodeWord .strict 0b1111001000101001#16 = some (.ldFVx 2) ∧
    decodeWord .strict 0b1111001000110011#16 = some (.ldBVx 2) ∧
    decodeWord .strict 0b1111001001010101#16 = some (.ldMemVx 2) ∧
    decodeWord .strict 0b1111001001100101#16 = some (.ldVxMem 2) := by decide

/-- VS4, VS6, VS7, VS8 under strict decode. -/
theorem test_decode_unknown_strict :
    [0x5121#16, 0x8128#16, 0x812F#16, 0xE19F#16, 0xF100#16, 0xF0FF#16, 0x01E0#16, 0x0FEE#16, 0x9121#16, 0x0000#16].map
      (decodeWord .strict) = List.replicate 10 none := by decide

/-- VS5, VS8 under loose decode; families 0x8, 0xE and 0xF are the same in both modes. -/
theorem test_decode_loose :
    decodeWord .loose 0x5121#16 = some (.seVxVy 1 2) ∧ decodeWord .loose 0x912F#16 = some (.sneVxVy 1 2) ∧
    decodeWord .loose 0x01E0#16 = some .cls ∧ decodeWord .loose 0x0FEE#16 = some .ret ∧
    decodeWord .loose 0x8128#16 = none ∧ decodeWord .loose 0xE19F#16 = none ∧ decodeWord .loose 0xF100#16 = none := by decide

theorem test_decode_bytes :
    decode .strict [0x12, 0x34, 0x56] = .ok (.jpNnn 0x234, [0x56]) ∧
    decode .strict [0x12] = .error .truncated ∧ decode .strict [] = .error .truncated ∧
    decode .strict [0x51, 0x21] = .error (.unknown 0x5121) := by decide

theorem test_decodeTableWord :
    decodeTableWord 16 0xD015 = some (.drwVxVyN 0 1 5) ∧ decodeTableWord 16 0x5121 = none ∧
    decodeTableWord 24 0xD015 = none := by decide

theorem test_encode :
    encode .cls = 0x00E0 ∧ encode (.jpNnn 0x234) = 0x1234 ∧ encode (.ldVxNn 0xA 0x9C) = 0x6A9C ∧
    encode (.addVxVy 8 0xA) = 0x88A4 ∧ encode (.drwVxVyN 0 1 5) = 0xD015 ∧ encode (.ldBVx 0xA) = 0xFA33 := by decide

/-! ## One step on a small state -/

/-- The state after reset with the word `op` at pc. -/
def at200 (op : Nat) : State := State.reset.withFetchWord 16 op

/-- What a function reads from the state a step answers. -/
def after {α : Type} (s : State) (f : State → α) : Option α :=
  match step s with
  | .next t => some (f t)
  | .fault _ => none
  | .refused _ => none

/-- The operands V0 = a, V1 = b, VF = f of 95_test_vectors.md section 2.3, with the word `op` at pc; V0 and VF after the step. -/
def alu (op : Nat) (a b f : Byte) : Option (Byte × Byte) :=
  after ((((at200 op).setV 0 a).setV 1 b).setV 0xF f) fun t => (t.getV 0, t.getV 0xF)

/-- The fault status after a step: HALTED, FAULT_CAUSE, FAULT_PC, FAULT_OP, FAULT_ADDR. -/
def faulted (s : State) : Option (Bool × Cause × Word × Word × BitVec 17) :=
  after s fun t => (t.halted, t.faultCause, t.faultPc, t.faultOp, t.faultAddr)

/-- `s` with bytes in memory from `a` on. -/
def bytesAt (s : State) (a : Nat) (bs : List Byte) : State := { s with mem := s.mem.load a bs }

/-- `s` with one pixel flipped. -/
def flipAt (s : State) (row : Fin 32) (col : Fin 64) : State := s.setDisplay (s.display.flip row col)

/-- Pixels of one row of a display, at the columns given. -/
def row (t : State) (r : Fin 32) (cols : List (Fin 64)) : List Bool := cols.map (t.display.pixel r)

-- The step around an instruction

/-- VS1 -/
theorem test_unknown_stall : after { at200 0x0123 with dt := 5 } (fun t => (t.pc, t.dt, t.halted, t.reports)) =
    some (0x200, 4, false, [{ pc := 0x200, op := 0x0123 }]) := by decide
/-- VS2 -/
theorem test_unknown_skip :
    after { at200 0x0123 with dt := 5, params := { defaults with unknownOpcode := .skip } }
      (fun t => (t.pc, t.dt, t.reports)) = some (0x202, 4, [{ pc := 0x200, op := 0x0123 }]) := by decide
/-- VS3 -/
theorem test_unknown_fault :
    let s : State := { at200 0x0123 with dt := 5, params := { defaults with unknownOpcode := .fault } }
    faulted s = some (true, .unknownOpcode, 0x200, 0x0123, 0) ∧ after s (fun t => (t.pc, t.dt)) = some (0x200, 5) := by decide
/-- VS5 -/
theorem test_loose_step :
    after { at200 0x5121 with params := { defaults with decode := .loose } } (fun t => t.pc) = some 0x204 := by decide
/-- VS9 -/
theorem test_fetch_last : after (bytesAt { State.reset with pc := 0x0FFE } 0xFFE [0x12, 0x00]) (fun t => t.pc) = some 0x200 := by decide
/-- VS10 -/
theorem test_fetch_fault :
    faulted { State.reset with pc := 0x0FFF } = some (true, .fetchRange, 0xFFF, 0, 0xFFF) := by decide
/-- VS11 -/
theorem test_fetch_odd :
    after (bytesAt { State.reset with pc := 0x0201 } 0x201 [0x60, 0x7A]) (fun t => (t.getV 0, t.pc)) = some (0x7A, 0x203) := by decide
/-- VS12 -/
theorem test_halted_step : step { at200 0x6001 with halted := true, dt := 9 } = .next { at200 0x6001 with halted := true, dt := 9 } :=
  rfl
/-- VS13 -/
theorem test_tick_floor : after { at200 0x6000 with dt := 1 } (fun t => (t.getV 0, t.dt, t.st)) = some (0, 0, 0) := by decide

-- Control flow

/-- VC2 -/
theorem test_ret :
    after (bytesAt { State.reset with pc := 0x400, sp := 1, stack := State.reset.stack.set 0 0x200 } 0x400 [0x00, 0xEE])
      (fun t => (t.sp, t.pc, t.stack.get 0)) = some (0, 0x202, 0x200) := by decide
/-- VC5 -/
theorem test_ret_underflow :
    faulted { at200 0x00EE with dt := 5 } = some (true, .stackUnderflow, 0x200, 0x00EE, 0) ∧
    after { at200 0x00EE with dt := 5 } (fun t => t.dt) = some 5 := by decide
/-- VC3 -/
theorem test_call : after { at200 0x2400 with sp := 15 } (fun t => (t.stack.get 15, t.sp, t.pc)) = some (0x200, 16, 0x400) := by decide
/-- VC4 -/
theorem test_call_overflow :
    faulted { at200 0x2400 with sp := 16 } = some (true, .stackOverflow, 0x200, 0x2400, 0) ∧
    after { at200 0x2400 with sp := 16 } (fun t => (t.sp, t.pc)) = some (16, 0x200) := by decide
/-- VC6 -/
theorem test_jp : after (at200 0x1ABC) (fun t => t.pc) = some 0xABC := by decide
/-- VC8, VC9 -/
theorem test_se_nn : after ((at200 0x3342).setV 3 0x42) (fun t => t.pc) = some 0x204 ∧
    after ((at200 0x3342).setV 3 0x41) (fun t => t.pc) = some 0x202 := by decide
/-- VC10, VC11 -/
theorem test_sne_nn : after ((at200 0x4342).setV 3 0x41) (fun t => t.pc) = some 0x204 ∧
    after ((at200 0x4342).setV 3 0x42) (fun t => t.pc) = some 0x202 := by decide
/-- VC12 -/
theorem test_se_vy : after (((at200 0x5120).setV 1 7).setV 2 7) (fun t => t.pc) = some 0x204 ∧
    after ((at200 0x5120).setV 1 7) (fun t => t.pc) = some 0x202 := by decide
/-- VC13, VC14 -/
theorem test_sne_vy : after (((at200 0x9120).setV 1 7).setV 2 8) (fun t => t.pc) = some 0x204 ∧
    after ((at200 0x9110).setV 1 7) (fun t => t.pc) = some 0x202 := by decide
/-- VC15, VC16 -/
theorem test_jp_v0 : after ((at200 0xB300).setV 0 0x04) (fun t => t.pc) = some 0x304 ∧
    after ((at200 0xBFFF).setV 0 0xFF) (fun t => (t.pc, t.halted)) = some (0x10FE, false) := by decide
/-- VC17 -/
theorem test_skip_past_end :
    after (bytesAt { State.reset with pc := 0x0FFC } 0xFFC [0x30, 0x00]) (fun t => (t.pc, t.halted)) = some (0x1000, false) ∧
    faulted { State.reset with pc := 0x1000 } = some (true, .fetchRange, 0x1000, 0, 0x1000) := by decide

-- Arithmetic

/-- VA24 -/
theorem test_ld_nn : alu 0x600A 0x99 0 0 = some (0x0A, 0) := by decide
/-- VA23, VA30 -/
theorem test_add_nn : alu 0x7001 0xFF 0 0 = some (0x00, 0) ∧ alu 0x7F01 0 0 0x10 = some (0, 0x11) := by decide
/-- VA22 -/
theorem test_ld_vy : alu 0x8010 0x12 0x34 0x55 = some (0x34, 0x55) := by decide
/-- VA19 -/
theorem test_or : alu 0x8011 0x0F 0xF0 0x55 = some (0xFF, 0x55) := by decide
/-- VA20 -/
theorem test_and : alu 0x8012 0x0F 0xF0 0x55 = some (0x00, 0x55) := by decide
/-- VA21 -/
theorem test_xor : alu 0x8013 0xFF 0xFF 0x55 = some (0x00, 0x55) := by decide
/-- VA1, VA2, VA4 -/
theorem test_add_vy : alu 0x8014 0xFF 0x01 0 = some (0x00, 1) ∧ alu 0x8014 0x7F 0x80 0 = some (0xFF, 0) ∧
    alu 0x8014 0x00 0x00 1 = some (0x00, 0) := by decide
/-- VA25, VA26 -/
theorem test_add_vf : alu 0x8F14 0 0x01 0xFF = some (0, 1) ∧ alu 0x80F4 0x10 0 0xF0 = some (0x00, 1) := by decide
/-- VA5 to VA8 -/
theorem test_sub : alu 0x8015 0x05 0x05 1 = some (0x00, 0) ∧ alu 0x8015 0x05 0x06 0 = some (0xFF, 0) ∧
    alu 0x8015 0x06 0x05 0 = some (0x01, 1) ∧ alu 0x8015 0x00 0xFF 0 = some (0x01, 0) := by decide
/-- VA27 -/
theorem test_sub_vf : alu 0x8F15 0 0x01 0x10 = some (0, 1) := by decide
/-- VA9 to VA11 -/
theorem test_subn : alu 0x8017 0x05 0x06 0 = some (0x01, 1) ∧ alu 0x8017 0x06 0x05 0 = some (0xFF, 0) ∧
    alu 0x8017 0x05 0x05 1 = some (0x00, 0) := by decide
/-- VA12, VA13, VA15 -/
theorem test_shr : alu 0x8006 0x01 0 0 = some (0x00, 1) ∧ alu 0x8006 0x80 0 1 = some (0x40, 0) ∧
    alu 0x8016 0x02 0xFF 0 = some (0x01, 0) := by decide
/-- VA28 -/
theorem test_shr_vf : alu 0x8F06 0 0 0x03 = some (0, 1) := by decide
/-- VA16 to VA18 -/
theorem test_shl : alu 0x800E 0x80 0 0 = some (0x00, 1) ∧ alu 0x800E 0x01 0 1 = some (0x02, 0) ∧
    alu 0x800E 0xFF 0 0 = some (0xFE, 1) := by decide
/-- VA29 -/
theorem test_shl_vf : alu 0x8F0E 0 0 0x40 = some (0, 0) := by decide
/-- VA31 to VA33: the byte drawn is the one the host supplies. -/
theorem test_rnd :
    after { at200 0xC30F with randomIn := some 0xB7 } (fun t => t.getV 3) = some 0x07 ∧
    after { at200 0xC300 with randomIn := some 0xFF } (fun t => (t.getV 3, t.draws)) = some (0x00, 1) ∧
    after { at200 0xC3FF with randomIn := some 0xA5 } (fun t => t.getV 3) = some 0xA5 := by decide

-- Index register and memory

/-- VM1 -/
theorem test_ld_i : after (at200 0xA2F0) (fun t => t.i) = some 0x02F0 := by decide
/-- VM2, VM3 -/
theorem test_add_i :
    after (((at200 0xF01E).setI 0xFFFF).setV 0 1) (fun t => (t.i, t.getV 0xF)) = some (0x0000, 0) ∧
    after (((at200 0xF01E).setI 0x0FFF).setV 0 1) (fun t => (t.i, t.halted)) = some (0x1000, false) := by decide
/-- VM5, VM6, VM7 -/
theorem test_ld_f : after ((at200 0xF029).setV 0 0x0F) (fun t => t.i) = some 0x004B ∧
    after ((at200 0xF029).setV 0 0x10) (fun t => t.i) = some 0x0050 ∧
    after ((at200 0xF029).setV 0 0xFF) (fun t => t.i) = some 0x04FB := by decide
/-- VM11, VM12 -/
theorem test_bcd :
    after (((at200 0xF033).setI 0x300).setV 0 0x9C) (fun t => t.mem.readBytes 0x300 3) = some [0x01, 0x05, 0x06] ∧
    after (((at200 0xF033).setI 0xFFD).setV 0 1) (fun t => t.mem.readBytes 0xFFD 3) = some [0x00, 0x00, 0x01] := by decide
/-- VM13, VM14, VM15, VM16 -/
theorem test_bcd_checks :
    faulted ((at200 0xF033).setI 0x0FFE) = some (true, .dataRange, 0x200, 0xF033, 0x1000) ∧
    faulted ((at200 0xF033).setI 0x004F) = some (true, .fontWrite, 0x200, 0xF033, 0x004F) ∧
    after ((({ at200 0xF033 with params := { defaults with fontWrite := .write } } : State).setI 0x4F).setV 0 0x7B)
      (fun t => t.mem.readBytes 0x4F 3) = some [0x01, 0x02, 0x03] ∧
    after ((({ at200 0xF033 with params := { defaults with fontWrite := .ignore } } : State).setI 0x4F).setV 0 123)
      (fun t => t.mem.readBytes 0x4F 3) = some [0x80, 0x02, 0x03] := by decide
/-- VM17, VM18 -/
theorem test_store_block :
    after ({ (at200 0xFF55).setI 0x0FF0 with v := Vector.ofFn fun k => BitVec.ofNat 8 (k.val + 1) })
      (fun t => (t.mem.readBytes 0xFF0 16, t.i)) = some ([1, 2, 3, 4, 5, 6, 7, 8, 9, 10, 11, 12, 13, 14, 15, 16], 0x0FF0) ∧
    faulted ((at200 0xFF55).setI 0x0FF1) = some (true, .dataRange, 0x200, 0xFF55, 0x1000) := by decide
/-- VM19 -/
theorem test_store_one :
    after (bytesAt (((at200 0xF055).setI 0x300).setV 0 0xAB) 0x301 [0x77]) (fun t => t.mem.readBytes 0x300 2) =
      some [0xAB, 0x77] := by decide
/-- VM20, VM22 -/
theorem test_load_block :
    after (bytesAt ((at200 0xFF65).setI 0x300) 0x300 [16, 17, 18, 19, 20, 21, 22, 23, 24, 25, 26, 27, 28, 29, 30, 31])
      (fun t => (t.getV 0, t.getV 7, t.getV 0xF)) = some (0x10, 0x17, 0x1F) ∧
    faulted ((at200 0xF465).setI 0x0FFC) = some (true, .dataRange, 0x200, 0xF465, 0x1000) := by decide
/-- VM21 -/
theorem test_load_font :
    after (at200 0xF465) (fun t => [t.getV 0, t.getV 1, t.getV 2, t.getV 3, t.getV 4, t.getV 5]) =
      some [0xF0, 0x90, 0x90, 0x90, 0xF0, 0x00] := by decide

-- Display

/-- VD3, VD4 -/
theorem test_draw_wraps :
    after (bytesAt ((at200 0xD011).setI 0x300 |>.setV 0 60) 0x300 [0xFF]) (fun t => (row t 0 [59, 60, 63, 0, 3, 4], t.getV 0xF)) =
      some ([false, true, true, true, true, false], 0) ∧
    after (bytesAt (((at200 0xD011).setI 0x300 |>.setV 0 70).setV 1 33) 0x300 [0x80]) (fun t => row t 1 [5, 6, 7]) =
      some [false, true, false] := by decide
/-- VD7, VD8, VD9, VD10 -/
theorem test_draw_flag :
    after (flipAt (bytesAt ((at200 0xD012).setI 0x300) 0x300 [0x80, 0x80]) 0 0) (fun t => (row t 0 [0], row t 1 [0], t.getV 0xF)) =
      some ([false], [true], 1) ∧
    after (bytesAt (((at200 0xDF11).setI 0x300).setV 0xF 5) 0x300 [0x80]) (fun t => (row t 0 [0, 5], t.getV 0xF)) =
      some ([false, true], 0) ∧
    faulted ((at200 0xD012).setI 0x0FFF) = some (true, .dataRange, 0x200, 0xD012, 0x1000) ∧
    after (((at200 0xD010).setI 0x0FFF).setV 0xF 1) (fun t => (row t 0 [0], t.getV 0xF, t.pc)) = some ([false], 0, 0x202) := by
  decide
/-- VD12 -/
theorem test_cls : after (flipAt ((at200 0x00E0).setV 0xF 5) 31 63) (fun t => (row t 31 [62, 63], t.getV 0xF)) =
    some ([false, false], 5) := by decide

-- Timers and keypad

/-- VT2 -/
theorem test_ld_vx_dt : after { at200 0xF007 with dt := 7 } (fun t => (t.getV 0, t.dt)) = some (7, 6) := by decide
/-- VT3, VT5 -/
theorem test_ld_dt : after (at200 0xF015) (fun t => t.dt) = some 0 ∧
    after ((at200 0xF015).setV 0 0xFF) (fun t => t.dt) = some 0xFE := by decide
/-- VT6 -/
theorem test_ld_st : after ((at200 0xF018).setV 0 3) (fun t => t.st) = some 2 := by decide
/-- VT7, VT8 -/
theorem test_skp : after (hostSetKey 5 true ((at200 0xE09E).setV 0 5)) (fun t => t.pc) = some 0x204 ∧
    after ((at200 0xE09E).setV 0 5) (fun t => t.pc) = some 0x202 := by decide
/-- VT10, VT11 -/
theorem test_skp_index :
    faulted ((at200 0xE09E).setV 0 0x10) = some (true, .keyRange, 0x200, 0xE09E, 0x10) ∧
    after (hostSetKey 5 true (({ at200 0xE09E with params := { defaults with keyIndex := .mask } } : State).setV 0 0x15))
      (fun t => t.pc) = some 0x204 := by decide
/-- VT9 -/
theorem test_sknp : after ((at200 0xE0A1).setV 0 5) (fun t => t.pc) = some 0x204 ∧
    after (hostSetKey 5 true ((at200 0xE0A1).setV 0 5)) (fun t => t.pc) = some 0x202 := by decide
/-- VT12 -/
theorem test_wait_no_key : after { at200 0xF30A with dt := 3 } (fun t => (t.pc, t.getV 3, t.dt)) = some (0x200, 0, 2) := by decide
/-- VT13, VT14 -/
theorem test_wait_key :
    after (hostSetKey 0 true (hostSetKey 5 true ((at200 0xF30A).setV 3 9))) (fun t => (t.getV 3, t.pc)) = some (0, 0x202) ∧
    after (hostSetKey 0xF true (at200 0xF30A)) (fun t => (t.getV 3, t.pc)) = some (0x0F, 0x202) := by decide

/-! ## The host interface -/

/-- The answer of a transaction that completes. -/
def answer (s : State) (a : Transaction) : Option Response :=
  match transact s a with
  | .next r => some r.2
  | .fault _ => none
  | .refused _ => none

/-- What a function reads from the state a transaction answers. -/
def afterHost {α : Type} (s : State) (a : Transaction) (f : State → α) : Option α :=
  match transact s a with
  | .next r => some (f r.1)
  | .fault _ => none
  | .refused _ => none

/-- VH1 -/
theorem test_reset_memory : [0x000, 0x04F, 0x050, 0xFFF].map State.reset.mem.read = [0xF0, 0x80, 0x00, 0x00] := by decide
/-- VH2 -/
theorem test_load_one : afterHost State.reset (.loadProgram (some [0x12])) wordAtPc = some 0x1200 := by decide
/-- VH3, at its edge: a byte that would land at 0x1000 is dropped. -/
theorem test_load_edge : (State.reset.mem.load 0xFFF [0xAA, 0xBB]) = [(0xFFF, 0xAA)] := by decide
/-- VH4 -/
theorem test_reset_unhalts :
    afterHost { at200 0x1234 with halted := true, faultCause := .stackOverflow } .reset
      (fun t => (t.halted, t.faultCause, wordAtPc t)) = some (false, .none, 0x0000) := by decide +kernel
/-- VH5 -/
theorem test_set_key_rejected : transact State.reset (.setKey 16 true) = .next (State.reset, .rejected) := rfl
/-- VH6: words of the first three rows. -/
theorem test_framebuffer :
    [0, 1, 2, 127, 128, 129, 130, 256].map ((framebuffer 2 (flipAt State.reset 0 0))[·]?) =
      [some 0x00FFFFFF, some 0x00FFFFFF, some 0, some 0, some 0x00FFFFFF, some 0x00FFFFFF, some 0, some 0] := by decide
/-- The outputs of a step: the event of VS1, and none for an instruction. -/
theorem test_step_event :
    answer (at200 0x0123) (.step 0) = some (.stepped (some { pc := 0x200, op := 0x0123 })) ∧
    answer (at200 0x00E0) (.step 0) = some (.stepped none) := by decide

/-! ## Witnesses: states and operands that meet the hypotheses of each obligation that has some -/

/-- The state after reset with other parameters. -/
def withParams (s : State) (q : Config.Params) : State := { s with params := q }

/-- `s` is running with an instruction at pc, and the step runs it to a state that has `f`. -/
def runsTo (s : State) (ins : Instr) (f : State → Bool) : Bool :=
  decide (s.halted = false ∧ s.pc.toNat ≤ 0x0FFE ∧ decodeWord s.params.decode (wordAtPc s) = some ins) &&
  (match exec ins s with | .next t => f t | .fault _ => false | .refused _ => false)

theorem runsTo_sound {s : State} {ins : Instr} {f : State → Bool} (h : runsTo s ins f = true) :
    Fetches s ins ∧ ∃ t, exec ins s = .next t ∧ f t = true := by
  simp only [runsTo, Bool.and_eq_true, decide_eq_true_eq] at h
  refine ⟨h.1, ?_⟩
  revert h
  cases exec ins s with
  | next t => exact fun h => ⟨t, rfl, h.2⟩
  | fault r => exact fun h => absurd h.2 (by simp)
  | refused r => exact fun h => absurd h.2 (by simp)

theorem witness_StrictDecodingIsExact : decodeWord .strict 0x5120 = some (.seVxVy 1 2) := by decide

theorem witness_UnknownWordsAreThoseListed :
    decodeWord .strict 0x01E0 = none ∧ decodeWord .strict 0x9AB1 = none ∧ decodeWord .loose 0x0000 = none ∧
    decodeWord .loose 0x8008 = none ∧ decodeWord .loose 0xEFA0 = none ∧ decodeWord .loose 0xF000 = none := by decide

theorem witness_StepRunsTheDecodedInstruction :
    Fetches (at200 0x6A9C) (.ldVxNn 0xA 0x9C) ∧ ∃ t, exec (.ldVxNn 0xA 0x9C) (at200 0x6A9C) = .next t :=
  let h := runsTo_sound (s := at200 0x6A9C) (ins := .ldVxNn 0xA 0x9C) (f := fun _ => true) (by decide)
  ⟨h.1, h.2.imp fun _ h => h.1⟩

theorem witness_HaltedStepChangesNothing : ({ State.reset with halted := true } : State).halted = true := rfl

theorem witness_FetchPastTheEndFaults :
    let s : State := { State.reset with pc := 0x0FFF }
    s.halted = false ∧ 0x0FFE < s.pc.toNat := by decide

/-- One witness for each of the three policies. -/
theorem witness_UnknownOpcodeFollowsItsPolicy : ∀ p : Config.UnknownPolicy,
    let s := withParams { at200 0x0123 with pc := 0x200, dt := 1 } { defaults with unknownOpcode := p }
    s.halted = false ∧ s.pc.toNat ≤ 0x0FFE ∧ decodeWord s.params.decode (wordAtPc s) = none ∧ s.params.unknownOpcode = p := by
  intro p; cases p <;> decide

/-- LD DT, V1, LD ST, V1 and LD V1, DT each fetched, and no timer instruction fetched, in a step that does not fault. -/
theorem witness_TimersTickOnceAStep :
    Fetches ((at200 0xF115).setV 1 0) (.ldDtVx 1) ∧ Fetches ((at200 0xF118).setV 1 0xFF) (.ldStVx 1) ∧
    Fetches { at200 0xF107 with dt := 0 } (.ldVxDt 1) ∧ Fetches { at200 0x00E0 with dt := 0xFF } .cls ∧
    [(at200 0xF115).setV 1 0, (at200 0xF118).setV 1 0xFF, { at200 0xF107 with dt := 0 }, { at200 0x00E0 with dt := 0xFF }].map
      (fun s => (s.halted, after s fun t => t.halted)) = List.replicate 4 (false, some false) :=
  ⟨⟨rfl, by decide, by decide⟩, ⟨rfl, by decide, by decide⟩, ⟨rfl, by decide, by decide⟩, ⟨rfl, by decide, by decide⟩, by decide⟩

/-- A fetch fault, a fault of an instruction and the unknown-opcode fault. -/
theorem witness_FaultedStepIsPrecise :
    [{ State.reset with pc := 0xFFFF }, at200 0x00EE,
     withParams (at200 0xFFFF) { defaults with unknownOpcode := .fault }].map
      (fun s => (s.halted, after s fun t => (t.halted, t.faultCause))) =
    [(false, some (true, .fetchRange)), (false, some (true, .stackUnderflow)), (false, some (true, .unknownOpcode))] := by decide

/-- What the execution of an instruction answers, for a witness of a fault. -/
def faultOf (ins : Instr) (s : State) : Option (Bool × Bool × Cause) :=
  match exec ins s with
  | .next t => some (s.halted, t.halted, t.faultCause)
  | .fault _ => none
  | .refused _ => none

/-- One witness for each cause an instruction raises, at the edge of its condition. -/
theorem witness_EveryFaultHasItsCondition :
    faultOf (.callNnn 0) { State.reset with sp := 16 } = some (false, true, .stackOverflow) ∧
    faultOf .ret State.reset = some (false, true, .stackUnderflow) ∧
    faultOf (.ldBVx 0) (State.reset.setI 0xFFE) = some (false, true, .dataRange) ∧
    faultOf (.drwVxVyN 0 0 1) (State.reset.setI 0x1000) = some (false, true, .dataRange) ∧
    faultOf (.ldMemVx 0) (State.reset.setI 0x04F) = some (false, true, .fontWrite) ∧
    faultOf (.skpVx 0) (State.reset.setV 0 16) = some (false, true, .keyRange) := by decide

theorem witness_StackFaultsAreRaised :
    ({ State.reset with sp := 16 } : State).sp.val = 16 ∧ State.reset.sp.val = 0 := by decide

/-- Each clause at the lowest I for which it faults. -/
theorem witness_AccessPastTheEndFaults :
    0x1000 ≤ (State.reset.setI 0xFFE).i.toNat + 2 ∧ 0x1000 ≤ (State.reset.setI 0x1000).i.toNat + (0 : Reg).val ∧
    0x1000 ≤ (State.reset.setI 0xFF1).i.toNat + (15 : Reg).val ∧
    0 < (1 : BitVec 4).toNat ∧ 0x1000 ≤ (State.reset.setI 0x1000).i.toNat + (1 : BitVec 4).toNat - 1 := by decide

theorem witness_FontWriteFaultsUnderItsPolicy :
    (State.reset.setI 0x04F).i.toNat ≤ 0x04F ∧ (State.reset.setI 0x04F).params.fontWrite = .fault := by decide

theorem witness_KeyIndexFaultsUnderItsPolicy :
    15 < ((State.reset.setV 3 16).getV 3).toNat ∧ (State.reset.setV 3 16).params.keyIndex = .fault := by decide

theorem witness_FaultsAreSticky : SafeRun (1 + 1) (bytesAt State.reset 0x200 [0x00, 0xE0, 0x12, 0x00]) :=
  ⟨_, rfl, by decide⟩

/-- The invariant at reset with a program placed, and a step from there; and a state that has faulted. -/
theorem witness_InvariantKeptByEveryStep :
    Inv (bytesAt State.reset 0x200 [0x22, 0x00]) ∧ ∃ t, step (bytesAt State.reset 0x200 [0x22, 0x00]) = .next t ∧ t.sp = 1 :=
  ⟨⟨by decide, by decide, by decide, by decide, fun _ => ⟨rfl, rfl, rfl⟩, by decide⟩, _, rfl, by decide⟩

/-- A faulting and a completing instruction. -/
theorem witness_EveryInstructionKeepsItsFrame :
    (∃ t, exec .ret State.reset = .next t ∧ t.halted = true) ∧ ∃ t, exec (.ldMemVx 2) (State.reset.setI 0x300) = .next t ∧ t.pc = 0x202 :=
  ⟨⟨_, rfl, by decide⟩, _, rfl, by decide⟩

/-- The last byte of the font under `ignore`, with a store that reaches it. -/
theorem witness_FontTableIsImmutable :
    let s := withParams ((at200 0xF055).setI 0x04F) { defaults with fontWrite := .ignore }
    s.params.fontWrite ≠ .write ∧ 0x04F ≤ 0x04F ∧ ∃ t, step s = .next t ∧ t.pc = 0x202 :=
  ⟨by decide, by decide, _, rfl, by decide⟩

theorem witness_KeypadAndParametersAreNotWritten : ∃ t, step (at200 0x6A9C) = .next t ∧ t.pc = 0x202 := ⟨_, rfl, by decide⟩

theorem witness_CanonicalMemoriesAreEqual :
    let m := State.reset.mem.write 0x300 7
    let m' := (State.reset.mem.write 0x300 9).write 0x300 7
    Memory.wf m ∧ Memory.wf m' ∧ ∀ a, m.read a = m'.read a := by
  exact ⟨by decide, by decide, fun _ => rfl⟩

theorem witness_CallPushesItsOwnAddress : (15 : Fin 16).val = ({ State.reset with sp := 15 } : State).sp.val ∧
    (0 : Fin 16).val = State.reset.sp.val := by decide

theorem witness_ReturnPopsAndAddsTwo : (0 : Fin 16).val + 1 = ({ State.reset with sp := 1 } : State).sp.val ∧
    (15 : Fin 16).val + 1 = ({ State.reset with sp := 16 } : State).sp.val := by decide

theorem witness_ReturnGoesPastTheCall : ({ State.reset with sp := 15 } : State).sp.val < 16 := by decide

theorem witness_ArithmeticSetsResultAndFlag : (0 : Reg) ≠ 0xF ∧ (14 : Reg) ≠ 0xF := by decide

theorem witness_TimerInstructionsMoveTheTimers :
    Fetches (at200 0xF107) (.ldVxDt 1) ∧ Fetches (at200 0xF115) (.ldDtVx 1) ∧ Fetches (at200 0xF118) (.ldStVx 1) :=
  ⟨⟨rfl, by decide, by decide⟩, ⟨rfl, by decide, by decide⟩, ⟨rfl, by decide, by decide⟩⟩

/-- An index of 15, and an index above 15 under `mask`. -/
theorem witness_SkipOnKey :
    ((15 : Key).val = ((State.reset.setV 3 15).getV 3).toNat % 16 ∧ ((State.reset.setV 3 15).getV 3).toNat ≤ 15) ∧
    let s := withParams (State.reset.setV 3 0x15) { defaults with keyIndex := .mask }
    ((5 : Key).val = (s.getV 3).toNat % 16 ∧ s.params.keyIndex = .mask) := by decide

theorem witness_WaitForKeyTakesTheLowestKey :
    (∀ k, State.reset.getKey k = false) ∧
    (hostSetKey 0 true State.reset).getKey 0 = true ∧ (hostSetKey 15 true State.reset).getKey 15 = true ∧
    ∀ j : Key, j < 15 → (hostSetKey 15 true State.reset).getKey j = false := by decide

/-- The top edge; and the font's edge under `ignore`, where the first byte does not land and the second does. -/
theorem witness_DigitsAreStored :
    (StoreAllowed (State.reset.setI 0xFFD) 3 ∧ WriteLands (State.reset.setI 0xFFD) 0xFFD) ∧
    let s := withParams (State.reset.setI 0x04F) { defaults with fontWrite := .ignore }
    (StoreAllowed s 3 ∧ ¬ WriteLands s 0x04F ∧ WriteLands s 0x050) := by
  unfold StoreAllowed WriteLands; decide

theorem witness_RegisterBlockIsStored :
    StoreAllowed (State.reset.setI 0xFF0) ((15 : Reg).val + 1) ∧ (15 : Reg) ≤ 15 ∧ WriteLands (State.reset.setI 0xFF0) 0xFFF := by
  unfold StoreAllowed WriteLands; decide

theorem witness_RegisterBlockIsLoaded :
    (State.reset.setI 0xFF0).i.toNat + (15 : Reg).val < 0x1000 ∧ (State.reset.setI 0xFFF).i.toNat + (0 : Reg).val < 0x1000 := by decide

/-- LD [I], V1 at 0x200 with I = 0x202 stores over the word that follows it. -/
theorem witness_StoredBytesAreFetched :
    Fetches ((at200 0xF155).setI 0x202) (.ldMemVx 1) ∧ StoreAllowed ((at200 0xF155).setI 0x202) ((1 : Reg).val + 1) ∧
    0x050 ≤ ((at200 0xF155).setI 0x202).i.toNat ∧ (1 : Reg).val = (0 : Reg).val + 1 ∧ (1 : Reg) ≤ 1 ∧
    ((at200 0xF155).setI 0x202).i.toNat + (0 : Reg).val = ((at200 0xF155).setI 0x202).pc.toNat + 2 :=
  ⟨⟨rfl, by decide, by decide⟩, by unfold StoreAllowed; decide, by decide, by decide, by decide, by decide⟩

/-- The last byte of memory as a sprite of one row; and n = 0 at an I past the end. -/
theorem witness_DrawXorsTheSprite :
    ((1 : BitVec 4) = 0 ∨ (State.reset.setI 0xFFF).i.toNat + (1 : BitVec 4).toNat ≤ 0x1000) ∧
    ((0 : BitVec 4) = 0 ∨ (State.reset.setI 0xFFFF).i.toNat + (0 : BitVec 4).toNat ≤ 0x1000) := by decide

theorem witness_FirstDrawOnClearDisplayDoesNotCollide :
    ((5 : BitVec 4) = 0 ∨ State.reset.i.toNat + (5 : BitVec 4).toNat ≤ 0x1000) := by decide

theorem witness_DrawingTwiceRestoresTheDisplay :
    (0 : Reg) ≠ 0xF ∧ (1 : Reg) ≠ 0xF ∧
    ((15 : BitVec 4) = 0 ∨ (State.reset.setI 0xFF1).i.toNat + (15 : BitVec 4).toNat ≤ 0x1000) := by decide

/-- A byte in the middle of an image, and a place an image reaches at the last address. -/
theorem witness_LoadPlacesTheImage :
    ([1, 2, 3] : List Byte)[1]? = some 2 ∧ 0x200 + 1 ≤ 0xFFF ∧ (List.replicate 3585 (7 : Byte))[3583]? = some 7 ∧ 0x200 + 3583 ≤ 0xFFF := by
  refine ⟨rfl, by decide, ?_, by decide⟩
  rw [List.getElem?_replicate]; rfl

theorem witness_SetKeySetsOneKey : 15 < 16 := by decide

theorem witness_FramebufferShowsThePixels :
    0 < 2 ∧ 127 < 64 * 2 ∧ 63 < 32 * 2 ∧ (31 : Fin 32).val = 63 / 2 ∧ (63 : Fin 64).val = 127 / 2 := by decide

/-- A state that fetches RND, and one that does not. -/
theorem witness_RandomByteServesOnlyRnd :
    Fetches (at200 0xC30F) (.rndVxNn 3 0x0F) ∧ ∀ x nn, ¬ Fetches (at200 0x00E0) (.rndVxNn x nn) := by
  refine ⟨⟨rfl, by decide, by decide⟩, fun x nn h => ?_⟩
  have e : decodeWord (at200 0x00E0).params.decode (wordAtPc (at200 0x00E0)) = some .cls := by decide
  cases e.symm.trans h.2.2

/-- A halted state that meets the invariant, so that reset, load and set_key are tried on a state a run can leave behind. -/
theorem witness_EveryTransactionKeepsTheInvariant :
    let s : State := { State.reset with halted := true, faultCause := .dataRange, faultPc := 0x200, faultOp := 0xF033, faultAddr := 0x1000 }
    Inv s ∧ ∃ t, transact s (.loadProgram (some [0x12, 0x00])) = .next (t, .ok) ∧ t.halted = true :=
  ⟨⟨by decide, by decide, by decide, by decide, by decide, by decide⟩, _, rfl, rfl⟩

end Sys2Proof.Tests
end

/-!
The state family: what every instruction leaves alone, what every step keeps, and the return after a call
(10_state.md, O19, O20, O22, O29).
-/
namespace Sys2Proof.Machine

section CallStack

variable {s : State}

/-- A call finds no fault exactly while an entry is free (41_control_flow.md R152). -/
theorem callFault_none : s.callFault = none ↔ s.sp.val < 16 := by
  simp only [State.callFault, Config.stackDepth, ite_eq_right_iff, reduceCtorEq, imp_false]
  omega

/-- A return finds no fault exactly while an entry is in use (41_control_flow.md R150). -/
theorem returnFault_none : s.returnFault = none ↔ 0 < s.sp.val := by
  simp only [State.returnFault, ite_eq_right_iff, reduceCtorEq, imp_false]
  omega

theorem exec_callNnn (h : s.sp.val < 16) (nnn : Addr) :
    exec (.callNnn nnn) s = .next ((s.push s.pc).setPc (nnn.setWidth 16)) := by
  rw [exec, execCallNnn, callFault_none.2 h, checked_none]

theorem exec_ret (h : 0 < s.sp.val) : exec .ret s = .next (s.pop.setPc (s.top + 2)) := by
  rw [exec, execRet, returnFault_none.2 h, checked_none]

/-- The stack index of a push is SP itself while an entry is free. -/
theorem eq_wrap_sp {k : Fin 16} (hk : k.val = s.sp.val) : k = wrap 16 s.sp.val := by rw [← hk, wrap_self]

theorem push_sp_val (h : s.sp.val < 16) (w : Word) : (s.push w).sp.val = s.sp.val + 1 :=
  Nat.mod_eq_of_lt (by omega)

/-- The entry just pushed is the one a return reads (10_state.md R40). -/
theorem top_push (h : s.sp.val < 16) (w : Word) : (s.push w).top = w := by
  rw [State.top, push_sp_val h, Nat.add_sub_cancel, push_stack_get, if_pos rfl]

theorem pop_push_sp (h : s.sp.val < 16) (w : Word) : (s.push w).pop.sp = s.sp := by
  rw [pop_sp, push_sp_val h, Nat.add_sub_cancel, wrap_self]

end CallStack

/-- Settles O29: the return reads the entry the call pushed. -/
theorem returnGoesPastTheCall : Obligations.ReturnGoesPastTheCall := by
  intro s nnn w h
  have hsp : 0 < (s.push s.pc).sp.val := by rw [push_sp_val h]; omega
  refine ⟨_, _, exec_callNnn h nnn, fun k hk => ?_, exec_ret hsp, ?_, pop_push_sp h s.pc⟩
  · rw [setPc_stack, push_stack_get, if_pos (eq_wrap_sp hk)]
  · exact congrArg (· + 2) (top_push h s.pc)

/-! ## The frame of every instruction -/

section Frames

variable {s t u body : State} {c : Part → Prop}

/-- An update followed by a write of pc changes pc besides. -/
theorem Frame.setPc (h : Frame c s u) (w : Word) : Frame (fun p => p = .pc ∨ c p) s (u.setPc w) :=
  (h.trans (frame_setPc u w)).mono fun _ => Or.symm

theorem Frame.advance (h : Frame c s u) : Frame (fun p => p = .pc ∨ c p) s u.advance := h.setPc _

/-- A write of pc alone, as the frame of an instruction that writes nothing else. -/
theorem frame_setPc_only (s : State) (w : Word) : Frame (fun p => p = .pc ∨ False) s (s.setPc w) :=
  (frame_setPc s w).mono fun _ => .inl

theorem frame_setResult (s : State) (x : Reg) (r : Byte) (f : Bool) :
    Frame (fun p => p = .v x ∨ p = .v regF) s (s.setResult x r f) :=
  (frame_setV s x r).trans (frame_setV _ regF _)

/-- Drawing changes the pixels that the sprite covers (44_display.md R221). -/
theorem frame_sprited (s : State) (x y : Reg) (n : BitVec 4) :
    Frame (fun p => ∃ row col, p = .pixel row col ∧ spriteBit s x y n.toNat row col = true) s
      (s.setDisplay (s.sprited x y n.toNat).1) := by
  refine frame_setDisplay s _ (spriteBit s x y n.toNat · · = true) fun row col hbit => ?_
  have hn : 0 + (s.mem.readBytes (s.ea 0) n.toNat).length ≤ 32 := by rw [length_readBytes]; omega
  rw [State.sprited, pixel_drawRows _ _ _ _ hn, spriteBits_eq, Bool.not_eq_true _ |>.mp hbit, Bool.xor_false]

/-- A call changes SP and the entry that SP names (41_control_flow.md R152). -/
theorem frame_call (h : s.callFault = none) (w : Word) :
    Frame (fun p => p = .sp ∨ ∃ k : Fin 16, k.val = s.sp.val ∧ p = .stack k) s (s.push w) :=
  (frame_push s w ⟨_, callFault_none.1 h⟩ rfl).mono fun _ hp => hp.imp_right fun hk => ⟨_, rfl, hk⟩

/-- A checked instruction changes the fault status alone, or what its body changes. -/
theorem checked_frame {f : Option (Cause × Nat)} (h : s.checked f body = .next t) (hb : f = none → Frame c s body) :
    Frame Part.faultStatus s t ∨ Frame c s t := by
  obtain ⟨cause, n, -, rfl⟩ | ⟨hnone, rfl⟩ := checked_next h
  · exact .inl (faulted_frame s cause _ n)
  · exact .inr (hb hnone)

end Frames

/-- Settles O20, instruction by instruction from the frames of the updates it makes. -/
theorem everyInstructionKeepsItsFrame : Obligations.EveryInstructionKeepsItsFrame := by
  intro s t ins h
  cases ins with
  | ret => exact checked_frame h fun _ => (frame_pop s).setPc _
  | callNnn nnn => exact checked_frame h fun hnone => (frame_call hnone s.pc).setPc _
  | skpVx x | sknpVx x => exact checked_frame h fun _ => frame_setPc_only s _
  | drwVxVyN x y n =>
    exact checked_frame h fun _ => Frame.advance
      (((frame_sprited s x y n).trans (frame_setV _ regF _)).mono fun _ => Or.symm)
  | ldBVx x => exact checked_frame h fun _ => (frame_storeBytes (bcdDigits (s.getV x)) s (s.ea 0)).advance
  | ldMemVx x =>
    refine checked_frame h fun _ => Frame.advance
      ((frame_storeBytes (s.blockBytes (blockSize x)) s (s.ea 0)).mono fun p hp => ?_)
    obtain ⟨k, hk, hp⟩ := hp
    rw [length_blockBytes] at hk
    exact ⟨k, Nat.le_of_lt_succ hk, hp⟩
  | ldVxMem x =>
    refine checked_frame h fun _ => Frame.advance ((frame_loadBlock s (blockSize x) x.isLt).mono fun p hp => ?_)
    obtain ⟨k, hk, hp⟩ := hp
    exact ⟨k, Nat.le_of_lt_succ hk, hp⟩
  | ldVxK x =>
    right
    simp only [exec, execLdVxK] at h
    split at h <;> cases h
    · exact (frame_setV s x _).advance
    · exact Frame.refl _ s
  | cls =>
    cases h
    exact .inr (Frame.advance ((frame_setDisplay s _ (fun _ _ => True) fun _ _ hc => absurd trivial hc).mono
      fun p ⟨row, col, hp, _⟩ => ⟨row, col, hp⟩))
  | jpNnn _ | jpV0Nnn _ | seVxNn _ _ | sneVxNn _ _ | seVxVy _ _ | sneVxVy _ _ =>
    cases h; exact .inr (frame_setPc_only s _)
  | ldVxNn x _ | addVxNn x _ | ldVxVy x _ | orVxVy x _ | andVxVy x _ | xorVxVy x _ | ldVxDt x =>
    cases h; exact .inr (frame_setV s x _).advance
  | addVxVy x _ | subVxVy x _ | shrVx x _ | subnVxVy x _ | shlVx x _ =>
    cases h; exact .inr (frame_setResult s x _ _).advance
  | rndVxNn x nn =>
    cases h
    exact .inr (Frame.advance (((frame_afterDraw s).trans (frame_setV _ x _)).mono fun _ hp => hp.symm.imp_right Or.symm))
  | ldINnn _ | addIVx _ | ldFVx _ => cases h; exact .inr (frame_setI s _).advance
  | ldDtVx _ => cases h; exact .inr (frame_setDt s _).advance
  | ldStVx _ => cases h; exact .inr (frame_setSt s _).advance

/-! ## The keypad and the parameters -/

/-- The parts that are the host's to set: the keypad latch and the parameters (10_state.md R43, R47). -/
def Part.hostInput (p : Part) : Prop := p = .params ∨ ∃ k, p = .key k

/-- No instruction's rule writes a host input. -/
theorem not_writes_of_hostInput (ins : Instr) (s : State) {p : Part} (hp : p.hostInput) : ¬ Writes ins s p := by
  obtain rfl | ⟨k, rfl⟩ := hp <;> cases ins <;> simp [Writes]

theorem not_faultStatus_of_hostInput {p : Part} (hp : p.hostInput) : ¬ p.faultStatus := by
  obtain rfl | ⟨k, rfl⟩ := hp <;> simp [Part.faultStatus]

theorem exec_same_of_hostInput {ins : Instr} {s t : State} {p : Part} (hp : p.hostInput) (h : exec ins s = .next t) :
    p.Same s t := by
  obtain hf | hf := everyInstructionKeepsItsFrame s t ins h
  · exact hf p (not_faultStatus_of_hostInput hp)
  · exact hf p (not_writes_of_hostInput ins s hp)

theorem unknownOpcode_same_of_hostInput {s t : State} {p : Part} (hp : p.hostInput) (h : unknownOpcode s = .next t) :
    p.Same s t := by
  obtain ⟨-, rfl⟩ | ⟨-, rfl⟩ | ⟨-, rfl⟩ := unknownOpcode_cases h <;> obtain rfl | ⟨k, rfl⟩ := hp <;> rfl

theorem afterStep_same_of_hostInput (u : State) {p : Part} (hp : p.hostInput) : p.Same u u.afterStep := by
  unfold State.afterStep
  split
  · exact Part.Same.refl u p
  · obtain rfl | ⟨k, rfl⟩ := hp <;> rfl

/-- No step writes a host input. -/
theorem step_same_of_hostInput {s t : State} {p : Part} (hp : p.hostInput) (h : step s = .next t) : p.Same s t := by
  obtain ⟨-, rfl⟩ | ⟨-, -, rfl⟩ | ⟨-, -, i, u, -, hu, rfl⟩ | ⟨-, -, u, -, hu, rfl⟩ := step_cases h
  · exact Part.Same.refl _ p
  · exact faulted_frame s _ _ _ p (not_faultStatus_of_hostInput hp)
  · exact (exec_same_of_hostInput hp hu).trans (afterStep_same_of_hostInput u hp)
  · exact (unknownOpcode_same_of_hostInput hp hu).trans (afterStep_same_of_hostInput u hp)

/-- Settles O22: the latch key by key, and the parameters, are host inputs. -/
theorem keypadAndParametersAreNotWritten : Obligations.KeypadAndParametersAreNotWritten := by
  intro s t h
  refine ⟨Vector.ext fun k hk => ?_, step_same_of_hostInput (p := .params) (.inl rfl) h⟩
  exact step_same_of_hostInput (p := .key ⟨k, hk⟩) (.inr ⟨_, rfl⟩) h

/-! ## The invariant, update by update -/

section Invariant

variable {s t body : State}

/-- The invariant reads memory, pc, the stack and the fault status; an update of other parts keeps it. -/
theorem Inv.congr (h : Inv s) (hm : t.mem = s.mem := by rfl) (hpc : t.pc = s.pc := by rfl)
    (hst : t.stack = s.stack := by rfl) (hh : t.halted = s.halted := by rfl) (hc : t.faultCause = s.faultCause := by rfl)
    (hfp : t.faultPc = s.faultPc := by rfl) (hfo : t.faultOp = s.faultOp := by rfl)
    (hfa : t.faultAddr = s.faultAddr := by rfl) : Inv t := by
  constructor
  · rw [hm]; exact h.memory
  · rw [hpc]; exact h.pc
  · rw [hst]; exact h.stack
  · rw [hh, hc]; exact h.cause
  · rw [hh, hfp, hfo, hfa]; exact h.running
  · rw [hc, hfo]; exact h.fetchOp

theorem Inv.setPc (h : Inv s) {w : Word} (hw : w.toNat ≤ 0x10FE) : Inv (s.setPc w) :=
  { h with pc := hw }

/-- An increment by at most 4 from a fetchable pc stays in the bound (10_state.md R36). -/
theorem Inv.setPc_add (h : Inv s) {pc d : Word} (hpc : pc.toNat ≤ 0x0FFE) (hd : d.toNat ≤ 4) : Inv (s.setPc (pc + d)) :=
  h.setPc (by rw [BitVec.toNat_add]; omega)

theorem Inv.advance (h : Inv s) (hpc : s.pc.toNat ≤ 0x0FFE) : Inv s.advance := h.setPc_add hpc (by decide)

theorem Inv.skipIf (h : Inv s) (hpc : s.pc.toNat ≤ 0x0FFE) (c : Bool) : Inv (s.skipIf c) :=
  h.setPc_add hpc (by cases c <;> decide)

theorem Inv.push (h : Inv s) {w : Word} (hw : w.toNat ≤ 0x0FFE) : Inv (s.push w) :=
  { h with
    stack := fun k => by
      rw [push_stack_get]
      split
      · exact hw
      · exact h.stack k }

theorem Inv.storeBytes (h : Inv s) {bs : List Byte} (hr : s.i.toNat + bs.length ≤ 0x1000) :
    Inv (s.storeBytes (s.ea 0) bs) := by
  rw [storeBytes_eq]
  exact { h with memory := storeBytes_wf bs h.memory _ hr }

theorem Inv.loadBlock (h : Inv s) (n : Nat) : Inv (s.loadBlock n) := by
  rw [loadBlock_eq]; exact h.congr

theorem Inv.afterStep (h : Inv s) : Inv s.afterStep := by
  unfold State.afterStep
  split
  · exact h
  · exact h.congr

/-- Fault entry keeps the invariant when it records a cause, and no opcode for a fetch (60_exceptions.md R264). -/
theorem Inv.raiseFault (h : Inv s) {c : Cause} {op : Word} (n : Nat) (hc : c ≠ .none) (hop : c = .fetchRange → op = 0) :
    Inv (s.raiseFault c op n) where
  memory := h.memory
  pc := h.pc
  stack := h.stack
  cause := ⟨fun _ => hc, fun _ => rfl⟩
  running := nofun
  fetchOp := hop

/-- The causes an instruction can raise: any but a fetch (60_exceptions.md R261). -/
def Cause.ofInstr (c : Cause) : Prop := c ≠ .none ∧ c ≠ .fetchRange

theorem Inv.raise (h : Inv s) {c : Cause} (n : Nat) (hc : c.ofInstr) : Inv (s.raise c n) :=
  h.raiseFault n hc.1 fun e => absurd e hc.2

/-- A checked instruction keeps the invariant when its checks raise an instruction's cause and its body keeps it. -/
theorem Inv.checked (h : Inv s) {f : Option (Cause × Nat)} (he : s.checked f body = .next t)
    (hf : ∀ g, f = some g → g.1.ofInstr) (hb : f = none → Inv body) : Inv t := by
  obtain ⟨c, n, hsome, rfl⟩ | ⟨hnone, rfl⟩ := checked_next he
  · exact h.raise n (hf _ hsome)
  · exact hb hnone

theorem ofInstr_rangeFault {n : Nat} (hn : n ≤ 16) (g : Cause × Nat) (h : s.rangeFault n = some g) : g.1.ofInstr := by
  rw [(rangeFault_cause hn h).1]; exact ⟨nofun, nofun⟩

theorem ofInstr_storeFault {n : Nat} (hn : n ≤ 16) (g : Cause × Nat) (h : s.storeFault n = some g) : g.1.ofInstr := by
  obtain e | e := (storeFault_cause hn h).1 <;> rw [e] <;> exact ⟨nofun, nofun⟩

theorem ofInstr_keyFault {v : Byte} (g : Cause × Nat) (h : s.keyFault v = some g) : g.1.ofInstr := by
  rw [(keyFault_cause h).1]; exact ⟨nofun, nofun⟩

theorem ofInstr_returnFault (g : Cause × Nat) (h : s.returnFault = some g) : g.1.ofInstr := by
  rw [returnFault_cause h]; exact ⟨nofun, nofun⟩

theorem ofInstr_callFault (g : Cause × Nat) (h : s.callFault = some g) : g.1.ofInstr := by
  rw [callFault_cause h]; exact ⟨nofun, nofun⟩

/-- A store that its checks allow, and the increment after it. -/
theorem Inv.checkedStore (h : Inv s) (hpc : s.pc.toNat ≤ 0x0FFE) {bs : List Byte} {n : Nat} (hlen : bs.length = n)
    (hpos : 0 < n) (hn : n ≤ 16)
    (he : s.checked (s.storeFault n) (s.storeBytes (s.ea 0) bs).advance = .next t) : Inv t := by
  refine h.checked he (ofInstr_storeFault hn) fun hnone => ?_
  have hr : s.i.toNat + bs.length ≤ 0x1000 := by rw [hlen]; exact ((storeFault_none hpos).1 hnone).1
  have hspc : (s.storeBytes (s.ea 0) bs).pc = s.pc := by rw [storeBytes_eq]
  exact (h.storeBytes hr).advance (by rw [hspc]; exact hpc)

/-- The target of a jump is at most 0xFFF (41_control_flow.md R151). -/
theorem toNat_target (nnn : Addr) : (nnn.setWidth 16 : Word).toNat ≤ 0x0FFF := by
  rw [BitVec.toNat_setWidth_of_le (by decide)]; omega

/-- The target of a jump with offset is at most 0xFFF + 0xFF (41_control_flow.md R157). -/
theorem toNat_offsetTarget (nnn : Addr) (b : Byte) : (nnn.setWidth 16 + b.setWidth 16 : Word).toNat ≤ 0x10FE := by
  have hb : (b.setWidth 16 : Word).toNat ≤ 0xFF := by rw [BitVec.toNat_setWidth_of_le (by decide)]; omega
  have ht := toNat_target nnn
  rw [BitVec.toNat_add]; omega

/-- An instruction fetched from a legal pc keeps the invariant. -/
theorem Inv.exec (h : Inv s) (hpc : s.pc.toNat ≤ 0x0FFE) {ins : Instr} (he : exec ins s = .next t) : Inv t := by
  cases ins with
  | ret => exact h.checked he ofInstr_returnFault fun _ => Inv.setPc_add (h.congr) (h.stack _) (by decide)
  | callNnn nnn =>
    exact h.checked he ofInstr_callFault fun _ => (h.push hpc).setPc ((toNat_target nnn).trans (by decide))
  | jpNnn nnn => cases he; exact h.setPc ((toNat_target nnn).trans (by decide))
  | jpV0Nnn nnn => cases he; exact h.setPc (toNat_offsetTarget nnn _)
  | seVxNn _ _ | sneVxNn _ _ | seVxVy _ _ | sneVxVy _ _ => cases he; exact h.skipIf hpc _
  | skpVx x | sknpVx x => exact h.checked he ofInstr_keyFault fun _ => h.skipIf hpc _
  | drwVxVyN x y n => exact h.checked he (ofInstr_rangeFault (by omega)) fun _ => Inv.advance h.congr hpc
  | ldBVx x => exact h.checkedStore hpc (bs := bcdDigits (s.getV x)) (n := 3) rfl (by decide) (by decide) he
  | ldMemVx x => exact h.checkedStore hpc (length_blockBytes s _) (Nat.succ_pos _) x.isLt he
  | ldVxMem x =>
    have hlpc : (s.loadBlock (blockSize x)).pc = s.pc := by rw [loadBlock_eq]
    exact h.checked he (ofInstr_rangeFault x.isLt) fun _ => (h.loadBlock _).advance (by rw [hlpc]; exact hpc)
  | ldVxK x =>
    simp only [Machine.exec, execLdVxK] at he
    split at he <;> cases he
    · exact Inv.advance h.congr hpc
    · exact h
  | cls | ldVxNn _ _ | addVxNn _ _ | ldVxVy _ _ | orVxVy _ _ | andVxVy _ _ | xorVxVy _ _ | addVxVy _ _ | subVxVy _ _
  | shrVx _ _ | subnVxVy _ _ | shlVx _ _ | rndVxNn _ _ | ldINnn _ | addIVx _ | ldFVx _ | ldVxDt _ | ldDtVx _
  | ldStVx _ => cases he; exact Inv.advance h.congr hpc

theorem Inv.unknownOpcode (h : Inv s) (hpc : s.pc.toNat ≤ 0x0FFE) (he : unknownOpcode s = .next t) : Inv t := by
  obtain ⟨-, rfl⟩ | ⟨-, rfl⟩ | ⟨-, rfl⟩ := unknownOpcode_cases he
  · exact h.congr
  · exact Inv.advance h.congr hpc
  · exact h.raise 0 ⟨nofun, nofun⟩

end Invariant

/-- Settles O19, over the four things a step can do. -/
theorem invariantKeptByEveryStep : Obligations.InvariantKeptByEveryStep := by
  intro s t h he
  obtain ⟨-, rfl⟩ | ⟨-, -, rfl⟩ | ⟨-, hpc, i, u, -, hu, rfl⟩ | ⟨-, hpc, u, -, hu, rfl⟩ := step_cases he
  · exact h
  · exact h.raiseFault _ nofun fun _ => rfl
  · exact (h.exec hpc hu).afterStep
  · exact (h.unknownOpcode hpc hu).afterStep

end Sys2Proof.Machine

/-!
The memory family: the faults of an access past the end and of a store to the font table, what a step leaves in memory,
and the canonical form (20_memory.md, O14, O15, O21, O23, O45).
-/
namespace Sys2Proof.Machine

/-! ## The faults of an access -/

section AccessFaults

variable {s : State} {n : Nat}

/-- A load or a draw whose last address `I + n` does not exist (20_memory.md R76). -/
theorem checked_rangeFault (h : 0x1000 ≤ s.i.toNat + n) (body : State) :
    s.checked (s.rangeFault (n + 1)) body = .next (Faulted s .dataRange (wordAtPc s) (s.i.toNat + n)) := by
  rw [rangeFault_some n.succ_pos (Nat.lt_succ_of_le h), checked_some, raise_eq]
  rfl

/-- A store whose last address `I + n` does not exist, whatever the font policy (20_memory.md R76). -/
theorem checked_storeFault_range (h : 0x1000 ≤ s.i.toNat + n) (body : State) :
    s.checked (s.storeFault (n + 1)) body = .next (Faulted s .dataRange (wordAtPc s) (s.i.toNat + n)) := by
  rw [storeFault_range n.succ_pos (Nat.lt_succ_of_le h), checked_some, raise_eq]
  rfl

/-- A store that begins in the font table under `P_FONT_WRITE = fault` (20_memory.md R77). -/
theorem checked_storeFault_font (hn : n ≤ 16) (hi : s.i.toNat ≤ 0x04F) (hp : s.params.fontWrite = .fault) (body : State) :
    s.checked (s.storeFault n) body = .next (Faulted s .fontWrite (wordAtPc s) s.i.toNat) := by
  rw [storeFault_font hn hi hp, checked_some, raise_eq]

end AccessFaults

/-- Settles O14: each instruction checks the range of its access before it does anything. -/
theorem accessPastTheEndFaults : Obligations.AccessPastTheEndFaults := by
  intro s x y n
  refine ⟨fun h => checked_storeFault_range h _, fun h => ⟨checked_storeFault_range h _, checked_rangeFault h _⟩,
    fun hn h => ?_, rfl⟩
  obtain ⟨m, hm⟩ : ∃ m, n.toNat = m + 1 := ⟨n.toNat - 1, by omega⟩
  rw [exec, execDrwVxVyN, hm]
  rw [hm] at h
  exact checked_rangeFault h _

/-- Settles O15: a store that begins in the font table ends below 0x1000, so the font check decides. -/
theorem fontWriteFaultsUnderItsPolicy : Obligations.FontWriteFaultsUnderItsPolicy := by
  intro s x hi hp
  exact ⟨checked_storeFault_font (by decide) hi hp _, checked_storeFault_font x.isLt hi hp _, rfl⟩

/-! ## The font table -/

section FontTable

variable {s t : State} {a : Nat}

/-- A step changes memory through the instruction it runs, or not at all. -/
theorem step_mem_cases (h : step s = .next t) : t.mem = s.mem ∨ ∃ i u, exec i s = .next u ∧ t.mem = u.mem := by
  have hafter : ∀ u : State, u.afterStep.mem = u.mem := fun u => by unfold State.afterStep; split <;> rfl
  obtain ⟨-, rfl⟩ | ⟨-, -, rfl⟩ | ⟨-, -, i, u, -, hu, rfl⟩ | ⟨-, -, u, -, hu, rfl⟩ := step_cases h
  · exact .inl rfl
  · exact .inl rfl
  · exact .inr ⟨i, u, hu, hafter u⟩
  · rw [hafter u]
    obtain ⟨-, rfl⟩ | ⟨-, rfl⟩ | ⟨-, rfl⟩ := unknownOpcode_cases hu <;> exact .inl rfl

/-- A checked store leaves the font table alone: it faults, or begins above the table, or drops the bytes below 0x050
(20_memory.md R77). -/
theorem checkedStore_read_font (hp : s.params.fontWrite ≠ .write) (ha : a ≤ 0x04F) {n : Nat} (hn : 0 < n) {bs : List Byte}
    (h : s.checked (s.storeFault n) (s.storeBytes (s.ea 0) bs).advance = .next t) : t.mem.read a = s.mem.read a := by
  obtain ⟨c, k, -, rfl⟩ | ⟨hnone, rfl⟩ := checked_next h
  · rfl
  · rw [advance_eq, setPc_mem, read_storeBytes, if_neg]
    rintro ⟨⟨hia, -⟩, hlands⟩
    have hi : s.i.toNat ≤ a := hia
    cases hw : s.params.fontWrite with
    | fault => exact ((storeFault_none hn).1 hnone).2 ⟨hi.trans ha, hw⟩
    | write => exact hp hw
    | ignore => exact hlands ⟨Nat.lt_succ_of_le ha, hw⟩

/-- Only Fx33 and Fx55 write memory (20_memory.md R74). -/
theorem writes_memory {ins : Instr} (h : Writes ins s (.memory a)) : ∃ x, ins = .ldBVx x ∨ ins = .ldMemVx x := by
  cases ins with
  | ldBVx x => exact ⟨x, .inl rfl⟩
  | ldMemVx x => exact ⟨x, .inr rfl⟩
  | _ => simp [Writes] at h

theorem exec_read_font (hp : s.params.fontWrite ≠ .write) (ha : a ≤ 0x04F) {ins : Instr} (h : exec ins s = .next t) :
    t.mem.read a = s.mem.read a := by
  by_cases hw : Writes ins s (.memory a)
  · obtain ⟨x, rfl | rfl⟩ := writes_memory hw
    · exact checkedStore_read_font hp ha (by decide) h
    · exact checkedStore_read_font hp ha x.val.succ_pos h
  · obtain hf | hf := everyInstructionKeepsItsFrame s t ins h
    · exact hf (.memory a) (by simp [Part.faultStatus])
    · exact hf (.memory a) hw

end FontTable

/-- Settles O21: no instruction changes the table, and nothing else in a step writes memory. -/
theorem fontTableIsImmutable : Obligations.FontTableIsImmutable := by
  intro s t a hp ha h
  obtain hmem | ⟨i, u, hu, hmem⟩ := step_mem_cases h <;> rw [hmem]
  exact exec_read_font hp ha hu

/-! ## The canonical form -/

/-- Where the addresses rise, a listed byte is the one its address reads as. -/
theorem read_of_mem {m : Memory} (h : m.Pairwise fun c d => c.1 < d.1) {c : Host.Cell} (hc : c ∈ m) : m.read c.1 = c.2 := by
  induction m with
  | nil => cases hc
  | cons d m ih =>
    obtain ⟨hd, hm⟩ := List.pairwise_cons.1 h
    obtain rfl | hc := List.mem_cons.1 hc
    · exact if_pos rfl
    · exact (if_neg (hd c hc).ne).trans (ih hm hc)

/-- A byte that differs from the reset contents is listed. -/
theorem mem_of_read_ne {m : Memory} {a : Nat} (h : m.read a ≠ resetByte a) : (a, m.read a) ∈ m := by
  induction m with
  | nil => exact absurd rfl h
  | cons d m ih =>
    rw [Memory.read] at h ⊢
    split at h
    · next e => subst e; rw [if_pos rfl]; exact List.mem_cons_self
    · next e => rw [if_neg e]; exact List.mem_cons_of_mem d (ih h)

/-- A canonical memory lists exactly the bytes that differ from the reset contents (log entry 7). -/
theorem mem_iff_read {m : Memory} (h : m.wf) {c : Host.Cell} : c ∈ m ↔ m.read c.1 = c.2 ∧ c.2 ≠ resetByte c.1 := by
  obtain ⟨hrising, hcells⟩ := h
  refine ⟨fun hc => ⟨read_of_mem hrising hc, (hcells c hc).2⟩, fun ⟨hread, hne⟩ => ?_⟩
  have hmem := mem_of_read_ne (hread ▸ hne)
  rwa [hread] at hmem

/-- Settles O23: rising lists with the same members are equal, and what a canonical memory lists is fixed by what it reads. -/
theorem canonicalMemoriesAreEqual : Obligations.CanonicalMemoriesAreEqual := by
  intro m₁ m₂ h₁ h₂ hread
  have hasymm : Std.Antisymm fun c d : Host.Cell => c.1 < d.1 := ⟨fun _ _ h h' => absurd h' h.asymm⟩
  have hirrefl : Std.Irrefl fun c d : Host.Cell => c.1 < d.1 := ⟨fun c => lt_irrefl c.1⟩
  refine h₁.1.eq_of_mem_iff h₂.1 fun c => ?_
  rw [mem_iff_read h₁, mem_iff_read h₂, hread]

/-! ## A store over the next word -/

section StoredBlock

variable {s : State} {x k : Reg}

theorem exec_ldMemVx (h : StoreAllowed s (x.val + 1)) :
    exec (.ldMemVx x) s = .next (s.storeBytes (s.ea 0) (s.blockBytes (blockSize x))).advance := by
  have hnone : s.storeFault (blockSize x) = none := (storeFault_none x.val.succ_pos).2 h
  rw [exec, execLdMemVx, hnone, checked_none]

/-- A stored block reads back as the registers it came from, where its bytes land (43_index_memory.md R204). -/
theorem read_storeBlock (hk : k ≤ x) (hlands : WriteLands s (s.i.toNat + k.val)) :
    (s.storeBytes (s.ea 0) (s.blockBytes (blockSize x))).mem.read (s.i.toNat + k.val) = s.getV k := by
  have hlt : k.val < blockSize x := Nat.lt_succ_of_le hk
  have hea : s.ea 0 = s.i.toNat := rfl
  rw [read_storeBytes, hea, length_blockBytes, if_pos, Nat.add_sub_cancel_left, getD_blockBytes s hlt]
  exact ⟨⟨by omega, by omega⟩, fun h => hlands ⟨Nat.le_of_lt_succ h.1, h.2⟩⟩

theorem storeBytes_pc (bs : List Byte) (s : State) (a : Nat) : (s.storeBytes a bs).pc = s.pc := by rw [storeBytes_eq]

theorem storeBytes_halted (bs : List Byte) (s : State) (a : Nat) : (s.storeBytes a bs).halted = s.halted := by
  rw [storeBytes_eq]

/-- A step that fetches LD [I], Vx and may store runs it and ticks (40_step_cycle.md R130). -/
theorem step_ldMemVx (hf : Fetches s (.ldMemVx x)) (h : StoreAllowed s (x.val + 1)) :
    step s = .next (s.storeBytes (s.ea 0) (s.blockBytes (blockSize x))).advance.tick := by
  obtain ⟨hrun, hpc, hd⟩ := hf
  have hrun' : (s.storeBytes (s.ea 0) (s.blockBytes (blockSize x))).advance.halted = false := by
    rw [advance_eq, setPc_halted, storeBytes_halted, hrun]
  rw [step_instr hrun hpc hd, exec_ldMemVx h, completeStep_next, State.afterStep, hrun', if_neg Bool.false_ne_true]

end StoredBlock

/-- Settles O45: both bytes of the next word lie in the stored block and above the font table. -/
theorem storedBytesAreFetched : Obligations.StoredBytesAreFetched := by
  intro s x k l hf hallowed hi hl hlx hpc
  have hlands : ∀ j : Reg, WriteLands s (s.i.toNat + j.val) := fun j h => by have := h.1; omega
  have hnext : (s.pc + 2).toNat = s.i.toNat + k.val := by
    have ⟨_, hfetch, _⟩ := hf
    rw [hpc]
    bv_omega
  have hkx : k ≤ x := (Fin.le_def.2 (by omega)).trans hlx
  have hsucc : s.i.toNat + k.val + 1 = s.i.toNat + l.val := by omega
  refine ⟨_, step_ldMemVx hf hallowed, ?_, ?_⟩
  · rw [tick_pc, advance_eq, setPc_pc, storeBytes_pc]
  · simp only [wordAtPc, tick_pc, tick_mem, advance_eq, setPc_pc, setPc_mem, storeBytes_pc]
    rw [hnext, hsucc, read_storeBlock hkx (hlands k), read_storeBlock hlx (hlands l)]

end Sys2Proof.Machine

/-!
The encoding family: a word is its fields side by side, and decoding and encoding undo each other
(30_encoding.md, O1, O2, O3, O4).
-/
namespace Sys2Proof
open Config (DecodeMode)

variable {mode : DecodeMode} {w : Word} {ins : Instr} {f s : BitVec 4} {nn : Byte}

/-! ## The fields of a word (00_scope.md R16) -/

theorem opFamily_toNat (w : Word) : (opFamily w).toNat = w.toNat / 0x1000 := by
  rw [opFamily, BitVec.extractLsb'_toNat, Nat.shiftRight_eq_div_pow]
  omega

theorem opX_val_eq_div (w : Word) : (opX w).val = w.toNat / 0x100 % 0x10 := by
  rw [opX_val, BitVec.extractLsb'_toNat, Nat.shiftRight_eq_div_pow]

theorem opY_val_eq_div (w : Word) : (opY w).val = w.toNat / 0x10 % 0x10 := by
  rw [opY_val, BitVec.extractLsb'_toNat, Nat.shiftRight_eq_div_pow]

theorem opN_toNat (w : Word) : (opN w).toNat = w.toNat % 0x10 := BitVec.extractLsb'_toNat ..

theorem opNN_toNat (w : Word) : (opNN w).toNat = w.toNat % 0x100 := BitVec.extractLsb'_toNat ..

theorem opNNN_toNat (w : Word) : (opNNN w).toNat = w.toNat % 0x1000 := BitVec.extractLsb'_toNat ..

theorem opFamily_eq_iff : opFamily w = f ↔ w.toNat / 0x1000 = f.toNat := by
  rw [← BitVec.toNat_inj, opFamily_toNat]

theorem opN_eq_iff : opN w = s ↔ w.toNat % 0x10 = s.toNat := by
  rw [← BitVec.toNat_inj, opN_toNat]

theorem opN_mem_iff (l : List (BitVec 4)) : opN w ∈ l ↔ w.toNat % 0x10 ∈ l.map BitVec.toNat := by
  rw [← opN_toNat, List.mem_map_of_injective BitVec.toNat_injective]

theorem opNN_mem_iff (l : List Byte) : opNN w ∈ l ↔ w.toNat % 0x100 ∈ l.map BitVec.toNat := by
  rw [← opNN_toNat, List.mem_map_of_injective BitVec.toNat_injective]

/-! ## A word put together again from its fields (30_encoding.md R102) -/

theorem word_eq_nnn (hf : opFamily w = f) : f ++ opNNN w = w := by
  subst hf
  apply BitVec.eq_of_toNat_eq
  rw [toNat_nnn, opFamily_toNat, opNNN_toNat]
  omega

theorem word_eq_xnn (hf : opFamily w = f) (hn : opNN w = nn) : f ++ regField (opX w) ++ nn = w := by
  subst hf hn
  apply BitVec.eq_of_toNat_eq
  rw [toNat_xnn, opFamily_toNat, opX_val_eq_div, opNN_toNat]
  omega

theorem word_eq_xyn (hf : opFamily w = f) (hs : opN w = s) : f ++ regField (opX w) ++ regField (opY w) ++ s = w := by
  subst hf hs
  apply BitVec.eq_of_toNat_eq
  rw [toNat_xyn, opFamily_toNat, opX_val_eq_div, opY_val_eq_div, opN_toNat]
  omega

/-! ## Decoding an encoded instruction -/

/-- The opcode map gives every instruction back from its word, format by format: the map reads back
the fields that the format lays out (30_encoding.md R102, R105). -/
theorem decodeWord_encode (mode : DecodeMode) (ins : Instr) : decodeWord mode (encode ins) = some ins := by
  cases ins with
  | cls | ret => cases mode <;> rfl
  | jpNnn nnn | callNnn nnn | ldINnn nnn | jpV0Nnn nnn => simp [encode, decodeWord]
  | seVxNn x nn | sneVxNn x nn | ldVxNn x nn | addVxNn x nn | rndVxNn x nn => simp [encode, decodeWord]
  | seVxVy x y | sneVxVy x y => simp [encode, decodeWord, decodeIfExact]
  | drwVxVyN x y n => simp [encode, decodeWord]
  | ldVxVy x y | orVxVy x y | andVxVy x y | xorVxVy x y | addVxVy x y | subVxVy x y | shrVx x y | subnVxVy x y | shlVx x y =>
    simp [encode, decodeWord, decodeFamily8]
  | skpVx x | sknpVx x => simp [encode, decodeWord, decodeFamilyE]
  | ldVxDt x | ldVxK x | ldDtVx x | ldStVx x | addIVx x | ldFVx x | ldBVx x | ldMemVx x | ldVxMem x =>
    simp [encode, decodeWord, decodeFamilyF]

/-- The bytes of a word in memory are the ones a fetch joins (20_memory.md R73). -/
theorem wordOf_bytes (w : Word) : wordOf (w.extractLsb' 8 8) (w.extractLsb' 0 8) = w := by
  apply BitVec.eq_of_toNat_eq
  rw [wordOf, toNat_append_add, BitVec.extractLsb'_toNat, BitVec.extractLsb'_toNat, Nat.shiftRight_eq_div_pow]
  omega

theorem decode_wordBytes (h : decodeWord mode w = some ins) (rest : List Byte) :
    decode mode (wordBytes w ++ rest) = .ok (ins, rest) := by
  simp only [wordBytes, List.cons_append, List.nil_append, decode, wordOf_bytes, h]

/-- Settles O2: the two bytes join to the word, and the word decodes to the instruction. -/
theorem decodeEncodeAgree : Obligations.DecodeEncodeAgree := fun mode ins rest =>
  decode_wordBytes (decodeWord_encode mode ins) rest

/-! ## Strict decode is exact -/

/-- Under strict the whole word selects in family 0x0 (30_encoding.md R106). -/
theorem encode_of_decodeFamily0 (hf : opFamily w = 0x0#4) (h : decodeFamily0 .strict w = some ins) : encode ins = w := by
  unfold decodeFamily0 at h
  split at h
  · next hx =>
    have hx : opX w = 0 := congrArg BitVec.toFin (hx.resolve_left nofun)
    have hw : 0x0#4 ++ regField 0 ++ opNN w = w := hx ▸ word_eq_xnn hf rfl
    split at h <;> cases h
    all_goals next hn => rw [← hw, hn]; rfl
  · cases h

/-- Under strict a word of the families 0x5 and 0x9 decodes only with low nibble 0 (30_encoding.md R110). -/
theorem of_decodeIfExact {i : Instr} (h : decodeIfExact .strict w i = some ins) : opN w = 0x0#4 ∧ i = ins := by
  unfold decodeIfExact at h
  split at h
  · next hn => exact ⟨hn.resolve_left nofun, Option.some.inj h⟩
  · cases h

theorem encode_of_decodeFamily8 (hf : opFamily w = 0x8#4) (h : decodeFamily8 w = some ins) : encode ins = w := by
  unfold decodeFamily8 at h
  split at h <;> cases h
  all_goals next hn => exact word_eq_xyn hf hn

theorem encode_of_decodeFamilyE (hf : opFamily w = 0xE#4) (h : decodeFamilyE w = some ins) : encode ins = w := by
  unfold decodeFamilyE at h
  split at h <;> cases h
  all_goals next hn => exact word_eq_xnn hf hn

theorem encode_of_decodeFamilyF (hf : opFamily w = 0xF#4) (h : decodeFamilyF w = some ins) : encode ins = w := by
  unfold decodeFamilyF at h
  split at h <;> cases h
  all_goals next hn => exact word_eq_xnn hf hn

/-- Settles O3, family by family: the fields the decoder reads and the ones it selects on make up the word. -/
theorem strictDecodingIsExact : Obligations.StrictDecodingIsExact := by
  intro w ins h
  unfold decodeWord at h
  split at h <;> rename_i hf
  · exact encode_of_decodeFamily0 hf h
  · exact Option.some.inj h ▸ word_eq_nnn hf
  · exact Option.some.inj h ▸ word_eq_nnn hf
  · exact Option.some.inj h ▸ word_eq_xnn hf rfl
  · exact Option.some.inj h ▸ word_eq_xnn hf rfl
  · obtain ⟨hn, rfl⟩ := of_decodeIfExact h
    exact word_eq_xyn hf hn
  · exact Option.some.inj h ▸ word_eq_xnn hf rfl
  · exact Option.some.inj h ▸ word_eq_xnn hf rfl
  · exact encode_of_decodeFamily8 hf h
  · obtain ⟨hn, rfl⟩ := of_decodeIfExact h
    exact word_eq_xyn hf hn
  · exact Option.some.inj h ▸ word_eq_nnn hf
  · exact Option.some.inj h ▸ word_eq_nnn hf
  · exact Option.some.inj h ▸ word_eq_xnn hf rfl
  · exact Option.some.inj h ▸ word_eq_xyn hf rfl
  · exact encode_of_decodeFamilyE hf h
  · exact encode_of_decodeFamilyF hf h
  · cases h

/-! ## The UNKNOWN class (30_encoding.md R111) -/

/-- The sixteen families are all there are (30_encoding.md R105). -/
theorem nibble_mem (f : BitVec 4) : f ∈ [0x0#4, 0x1#4, 0x2#4, 0x3#4, 0x4#4, 0x5#4, 0x6#4, 0x7#4, 0x8#4, 0x9#4, 0xA#4, 0xB#4,
    0xC#4, 0xD#4, 0xE#4, 0xF#4] := by
  revert f
  decide

/-- Which clause of the opcode map leaves a word without a row. -/
theorem decodeWord_eq_none : decodeWord mode w = none ↔
    (opFamily w = 0x0#4 ∧ decodeFamily0 mode w = none) ∨
    (opFamily w = 0x5#4 ∧ mode = .strict ∧ opN w ≠ 0x0#4) ∨
    (opFamily w = 0x9#4 ∧ mode = .strict ∧ opN w ≠ 0x0#4) ∨
    (opFamily w = 0x8#4 ∧ decodeFamily8 w = none) ∨
    (opFamily w = 0xE#4 ∧ decodeFamilyE w = none) ∨
    (opFamily w = 0xF#4 ∧ decodeFamilyF w = none) := by
  unfold decodeWord
  split
  case h_17 => exact absurd (nibble_mem (opFamily w)) (by simp_all)
  all_goals next hf => cases mode <;> simp [hf, decodeIfExact]

/-- Family 0x0 has rows for two low bytes only, and under strict for `x` 0 only (30_encoding.md R106). -/
theorem decodeFamily0_eq_none : decodeFamily0 mode w = none ↔
    opNN w ∉ [0xE0#8, 0xEE#8] ∨ mode = .strict ∧ (opX w).val ≠ 0 := by
  have hx : w.extractLsb' 8 4 = 0x0#4 ↔ (opX w).val = 0 := BitVec.toNat_inj.symm
  simp only [decodeFamily0, hx]
  split
  · next h =>
    have hexact : ¬(mode = .strict ∧ (opX w).val ≠ 0) := fun ⟨hm, hne⟩ => h.elim (fun hl => nomatch hm.symm.trans hl) hne
    rw [or_iff_left hexact]
    split <;> simp_all
  · cases mode <;> simp_all

/-- Family 0x8 has rows for these selectors only (30_encoding.md R107). -/
theorem decodeFamily8_eq_none : decodeFamily8 w = none ↔
    opN w ∉ [0x0#4, 0x1#4, 0x2#4, 0x3#4, 0x4#4, 0x5#4, 0x6#4, 0x7#4, 0xE#4] := by
  unfold decodeFamily8
  split <;> simp_all

/-- Family 0xE has rows for these selectors only (30_encoding.md R108). -/
theorem decodeFamilyE_eq_none : decodeFamilyE w = none ↔ opNN w ∉ [0x9E#8, 0xA1#8] := by
  unfold decodeFamilyE
  split <;> simp_all

/-- Family 0xF has rows for these selectors only (30_encoding.md R109). -/
theorem decodeFamilyF_eq_none : decodeFamilyF w = none ↔
    opNN w ∉ [0x07#8, 0x0A#8, 0x15#8, 0x18#8, 0x1E#8, 0x29#8, 0x33#8, 0x55#8, 0x65#8] := by
  unfold decodeFamilyF
  split <;> simp_all

theorem family8_unknown_iff : (opFamily w = 0x8#4 ∧ decodeFamily8 w = none) ↔
    w.toNat / 0x1000 = 0x8 ∧ w.toNat % 0x10 ∈ [0x8, 0x9, 0xA, 0xB, 0xC, 0xD, 0xF] := by
  rw [opFamily_eq_iff, decodeFamily8_eq_none, opN_mem_iff]
  refine and_congr_right fun _ => ?_
  simp only [List.map_cons, List.map_nil, List.mem_cons, List.not_mem_nil, or_false, BitVec.toNat_ofNat]
  omega

theorem familyE_unknown_iff : (opFamily w = 0xE#4 ∧ decodeFamilyE w = none) ↔
    w.toNat / 0x1000 = 0xE ∧ w.toNat % 0x100 ∉ [0x9E, 0xA1] := by
  rw [opFamily_eq_iff, decodeFamilyE_eq_none, opNN_mem_iff]; rfl

theorem familyF_unknown_iff : (opFamily w = 0xF#4 ∧ decodeFamilyF w = none) ↔
    w.toNat / 0x1000 = 0xF ∧ w.toNat % 0x100 ∉ [0x07, 0x0A, 0x15, 0x18, 0x1E, 0x29, 0x33, 0x55, 0x65] := by
  rw [opFamily_eq_iff, decodeFamilyF_eq_none, opNN_mem_iff]; rfl

/-- Under strict the two words themselves are the rows of family 0x0 (30_encoding.md R106). -/
theorem family0_unknown_strict_iff : (opFamily w = 0x0#4 ∧ decodeFamily0 .strict w = none) ↔
    w.toNat / 0x1000 = 0x0 ∧ w ≠ 0x00E0 ∧ w ≠ 0x00EE := by
  rw [opFamily_eq_iff, decodeFamily0_eq_none, opNN_mem_iff, opX_val_eq_div]
  refine and_congr_right fun hf => ?_
  simp only [List.map_cons, List.map_nil, List.mem_cons, List.not_mem_nil, or_false, true_and, ne_eq, ← BitVec.toNat_inj,
    BitVec.ofNat_eq_ofNat, BitVec.toNat_ofNat] at hf ⊢
  omega

/-- Under loose the low byte alone selects in family 0x0 (30_encoding.md R106). -/
theorem family0_unknown_loose_iff : (opFamily w = 0x0#4 ∧ decodeFamily0 .loose w = none) ↔
    w.toNat / 0x1000 = 0x0 ∧ w.toNat % 0x100 ∉ [0xE0, 0xEE] := by
  rw [opFamily_eq_iff, decodeFamily0_eq_none, opNN_mem_iff]
  exact and_congr_right fun _ => or_iff_left nofun

/-- Under strict a low nibble other than 0 selects nothing in the families 0x5 and 0x9 (30_encoding.md R110). -/
theorem exactFamily_unknown_strict_iff : (opFamily w = f ∧ DecodeMode.strict = .strict ∧ opN w ≠ 0x0#4) ↔
    w.toNat / 0x1000 = f.toNat ∧ w.toNat % 0x10 ≠ 0 := by
  rw [opFamily_eq_iff, ne_eq, opN_eq_iff]
  exact and_congr_right fun _ => and_iff_right rfl

/-- Settles O4: the words without a row, family by family and in numbers. -/
theorem unknownWordsAreThoseListed : Obligations.UnknownWordsAreThoseListed := by
  intro w
  constructor <;> rw [decodeWord_eq_none, family8_unknown_iff, familyE_unknown_iff, familyF_unknown_iff]
  · rw [family0_unknown_strict_iff, exactFamily_unknown_strict_iff, exactFamily_unknown_strict_iff]
    rfl
  · simp only [family0_unknown_loose_iff, reduceCtorEq, false_and, and_false, false_or]

/-- Settles O1: one word of every row, evaluated. -/
theorem wordsOfTheSpecDecode : Obligations.WordsOfTheSpecDecode := by
  unfold Obligations.WordsOfTheSpecDecode
  decide

end Sys2Proof

/-!
The step family: the step around an instruction, the paths that run none, and the timers
(40_step_cycle.md, O5, O6, O7, O8, O9, O10).
-/
namespace Sys2Proof.Machine

section StepCycle

variable {s t u : State} {ins : Instr}

/-! ## Every step answers -/

theorem exists_checked_next (s body : State) (f : Option (Cause × Nat)) : ∃ t, s.checked f body = .next t := by
  cases f with
  | none => exact ⟨_, checked_none s body⟩
  | some f => exact ⟨_, checked_some s body f.1 f.2⟩

/-- Every instruction has a meaning in every state: the wait for a key answers with and without one, the others answer
their body or a fault (40_step_cycle.md R133). -/
theorem exists_exec_next (ins : Instr) (s : State) : ∃ t, exec ins s = .next t := by
  cases ins with
  | ret | callNnn _ | drwVxVyN _ _ _ | skpVx _ | sknpVx _ | ldBVx _ | ldMemVx _ | ldVxMem _ =>
    exact exists_checked_next s _ _
  | ldVxK x =>
    rw [exec, execLdVxK]
    cases s.lowestKey with
    | some k => exact ⟨_, rfl⟩
    | none => exact ⟨s, rfl⟩
  | _ => exact ⟨_, rfl⟩

theorem unknownOpcode_stall (h : s.params.unknownOpcode = .stall) : unknownOpcode s = .next s.report := by
  rw [unknownOpcode, h]

theorem unknownOpcode_skip (h : s.params.unknownOpcode = .skip) : unknownOpcode s = .next s.report.advance := by
  rw [unknownOpcode, h]

theorem unknownOpcode_fault (h : s.params.unknownOpcode = .fault) :
    unknownOpcode s = .next (s.raise .unknownOpcode 0) := by
  rw [unknownOpcode, h]

theorem exists_unknownOpcode_next (s : State) : ∃ t, unknownOpcode s = .next t := by
  cases h : s.params.unknownOpcode with
  | stall => exact ⟨_, unknownOpcode_stall h⟩
  | skip => exact ⟨_, unknownOpcode_skip h⟩
  | fault => exact ⟨_, unknownOpcode_fault h⟩

/-! ## The end of a step -/

theorem afterStep_of_running (h : u.halted = false) : u.afterStep = u.tick := by
  rw [State.afterStep, h, if_neg Bool.false_ne_true]

theorem afterStep_of_halted (h : u.halted = true) : u.afterStep = u := by
  rw [State.afterStep, if_pos h]

@[simp] theorem afterStep_halted (u : State) : u.afterStep.halted = u.halted := by
  unfold State.afterStep
  split <;> rfl

/-- A fetched instruction runs and the step ends after it (40_step_cycle.md R130). -/
theorem step_of_fetches (hf : Fetches s ins) (hu : exec ins s = .next u) : step s = .next u.afterStep := by
  obtain ⟨hrun, hpc, hd⟩ := hf
  rw [step_instr hrun hpc hd, hu, completeStep_next]

/-- A fetched word that decodes to nothing takes its path and the step ends after it (40_step_cycle.md R136). -/
theorem step_of_unknown (hrun : s.halted = false) (hpc : s.pc.toNat ≤ 0x0FFE)
    (hd : decodeWord s.params.decode (wordAtPc s) = none) (hu : unknownOpcode s = .next u) : step s = .next u.afterStep := by
  rw [step_unknown hrun hpc hd, hu, completeStep_next]

/-! ## The timers -/

/-- The two timers (10_state.md R41, R42). -/
def Part.timer (p : Part) : Prop := p = .dt ∨ p = .st

theorem not_faultStatus_of_timer {p : Part} (hp : p.timer) : ¬ p.faultStatus := by
  obtain rfl | rfl := hp <;> simp [Part.faultStatus]

/-- Only LD DT, Vx writes DT (45_timers_keys.md R244). -/
theorem writes_dt (h : Writes ins s .dt) : ∃ x, ins = .ldDtVx x := by
  cases ins with
  | ldDtVx x => exact ⟨x, rfl⟩
  | _ => simp [Writes] at h

/-- Only LD ST, Vx writes ST (45_timers_keys.md R245). -/
theorem writes_st (h : Writes ins s .st) : ∃ x, ins = .ldStVx x := by
  cases ins with
  | ldStVx x => exact ⟨x, rfl⟩
  | _ => simp [Writes] at h

/-- An instruction leaves a timer alone, faulting or not, unless its rule writes it. -/
theorem exec_timer {p : Part} (hp : p.timer) (h : exec ins s = .next u) : p.Same s u ∨ Writes ins s p := by
  refine or_iff_not_imp_right.2 fun hw => ?_
  obtain hf | hf := everyInstructionKeepsItsFrame s u ins h
  · exact hf p (not_faultStatus_of_timer hp)
  · exact hf p hw

theorem unknownOpcode_timer {p : Part} (hp : p.timer) (h : unknownOpcode s = .next u) : p.Same s u := by
  obtain ⟨-, rfl⟩ | ⟨-, rfl⟩ | ⟨-, rfl⟩ := unknownOpcode_cases h <;> obtain rfl | rfl := hp <;> rfl

/-- A step that starts running and does not fault ends with one tick, and before it a timer changes only by a fetched
instruction that writes it (40_step_cycle.md R130, R134). -/
theorem step_ticks (hrun : s.halted = false) (h : step s = .next t) (ht : t.halted = false) :
    ∃ u : State, t = u.tick ∧ ∀ p : Part, p.timer → p.Same s u ∨ ∃ ins, Fetches s ins ∧ Writes ins s p := by
  obtain ⟨hh, -⟩ | ⟨-, -, rfl⟩ | ⟨-, hpc, ins, u, hd, hu, rfl⟩ | ⟨-, -, u, -, hu, rfl⟩ := step_cases h
  · cases hrun.symm.trans hh
  · cases ht
  · rw [afterStep_halted] at ht
    exact ⟨u, afterStep_of_running ht, fun p hp => (exec_timer hp hu).imp_right fun hw => ⟨ins, ⟨hrun, hpc, hd⟩, hw⟩⟩
  · rw [afterStep_halted] at ht
    exact ⟨u, afterStep_of_running ht, fun p hp => .inl (unknownOpcode_timer hp hu)⟩

/-- The state after a fetched instruction that did not fault is the one the tick leaves. -/
theorem eq_tick_of_fetches (h : step s = .next t) (hf : Fetches s ins) (hu : exec ins s = .next u)
    (hrun : u.halted = false) : t = u.tick := by
  rw [step_of_fetches hf hu, afterStep_of_running hrun] at h
  cases h
  rfl

end StepCycle

/-- Settles O6: each of the four things a step can be answers a next state. -/
theorem stepAlwaysAnswersNext : Obligations.StepAlwaysAnswersNext := by
  intro s
  cases hrun : s.halted with
  | true => exact ⟨s, step_halted hrun⟩
  | false =>
    obtain hpc | hpc := Nat.lt_or_ge 0x0FFE s.pc.toNat
    · exact ⟨_, step_fetchFault hrun hpc⟩
    cases hd : decodeWord s.params.decode s.opcode with
    | some ins =>
      obtain ⟨u, hu⟩ := exists_exec_next ins s
      exact ⟨_, step_of_fetches ⟨hrun, hpc, hd⟩ hu⟩
    | none =>
      obtain ⟨u, hu⟩ := exists_unknownOpcode_next s
      exact ⟨_, step_of_unknown hrun hpc hd hu⟩

/-- Settles O10: a timer that the fetched instruction does not write reaches the tick unchanged, and a written one
reaches it with its new value. -/
theorem timersTickOnceAStep : Obligations.TimersTickOnceAStep := by
  intro s t hrun h ht
  refine ⟨fun hno => ?_, fun x hf => ?_, fun hno => ?_, fun x hf => ?_, fun x hf => ?_⟩
  · obtain ⟨u, rfl, hkeep⟩ := step_ticks hrun h ht
    have hdt : u.dt = s.dt := (hkeep .dt (.inl rfl)).resolve_right fun ⟨ins, hf, hw⟩ => by
      obtain ⟨x, rfl⟩ := writes_dt hw
      exact hno x hf
    rw [tick_dt, countdown_toNat, hdt]
  · rw [eq_tick_of_fetches h hf rfl hrun, tick_dt, countdown_toNat]
    rfl
  · obtain ⟨u, rfl, hkeep⟩ := step_ticks hrun h ht
    have hst : u.st = s.st := (hkeep .st (.inr rfl)).resolve_right fun ⟨ins, hf, hw⟩ => by
      obtain ⟨x, rfl⟩ := writes_st hw
      exact hno x hf
    rw [tick_st, countdown_toNat, hst]
  · rw [eq_tick_of_fetches h hf rfl hrun, tick_st, countdown_toNat]
    rfl
  · rw [eq_tick_of_fetches h hf rfl hrun, getV_tick]
    exact getV_setV_self s x s.dt

/-- Settles O5: the decrement of each timer that is not 0 is the tick. -/
theorem stepRunsTheDecodedInstruction : Obligations.StepRunsTheDecodedInstruction := fun _ _ _ hf ht =>
  step_of_fetches hf ht

/-- Settles O7: the check of HALTED comes before the fetch. -/
theorem haltedStepChangesNothing : Obligations.HaltedStepChangesNothing := fun _ => step_halted

/-- Settles O8: the fetch fault is fault entry with opcode 0 and the address pc. -/
theorem fetchPastTheEndFaults : Obligations.FetchPastTheEndFaults := fun _ hrun hpc => ⟨step_fetchFault hrun hpc, rfl⟩

/-- Settles O9: a report, with or without the increment, leaves the block running and so is followed by the tick; the fault
halts it and is not. -/
theorem unknownOpcodeFollowsItsPolicy : Obligations.UnknownOpcodeFollowsItsPolicy := by
  intro s hrun hpc hd
  refine ⟨fun hp => ?_, fun hp => ?_, fun hp => ?_, rfl⟩
  · rw [step_of_unknown hrun hpc hd (unknownOpcode_stall hp), afterStep_of_running (u := s.report) hrun]
    rfl
  · rw [step_of_unknown hrun hpc hd (unknownOpcode_skip hp), afterStep_of_running (u := s.report.advance) hrun]
    rfl
  · rw [step_of_unknown hrun hpc hd (unknownOpcode_fault hp), afterStep_of_halted rfl, raise_eq]

end Sys2Proof.Machine

/-!
The control-flow family: return, jumps, call and skips (41_control_flow.md, O13, O25, O26, O27, O28, O30, O31).
-/
namespace Sys2Proof.Machine

/-! ## The call stack -/

section StackEnds

variable {s : State}

/-- A call with no entry free faults before it pushes anything (41_control_flow.md R152). -/
theorem exec_callNnn_overflow (h : s.sp.val = 16) (nnn : Addr) :
    exec (.callNnn nnn) s = .next (Faulted s .stackOverflow (wordAtPc s) 0) := by
  have hf : s.callFault = some (.stackOverflow, 0) := if_pos h
  rw [exec, execCallNnn, hf, checked_some, raise_eq]

/-- A return with no entry in use faults before it pops anything (41_control_flow.md R150). -/
theorem exec_ret_underflow (h : s.sp.val = 0) :
    exec .ret s = .next (Faulted s .stackUnderflow (wordAtPc s) 0) := by
  have hf : s.returnFault = some (.stackUnderflow, 0) := if_pos h
  rw [exec, execRet, hf, checked_some, raise_eq]

/-- The entry a return reads is the one below SP (41_control_flow.md R150). -/
theorem top_of_sp {k : Fin 16} (hk : k.val + 1 = s.sp.val) : s.top = s.stack.get k := by
  rw [State.top, ← hk, Nat.add_sub_cancel, wrap_self]

theorem pop_sp_val (h : 0 < s.sp.val) : s.pop.sp.val = s.sp.val - 1 :=
  Nat.mod_eq_of_lt (by omega)

end StackEnds

/-! ## Targets and skips -/

/-- The target of a jump with offset is the sum as numbers: it fits 16 bits (41_control_flow.md R157). -/
theorem toNat_offsetTarget_eq (nnn : Addr) (b : Byte) :
    (nnn.setWidth 16 + b.setWidth 16 : Word).toNat = nnn.toNat + b.toNat := by
  have hn : (nnn.setWidth 16 : Word).toNat = nnn.toNat := BitVec.toNat_setWidth_of_le (by decide)
  have hb : (b.setWidth 16 : Word).toNat = b.toNat := BitVec.toNat_setWidth_of_le (by decide)
  rw [BitVec.toNat_add, hn, hb]
  omega

theorem frame_skipIf (s : State) (c : Bool) : Frame (fun p => p = .pc) s (s.skipIf c) := frame_setPc s _

/-- The skip of SE: 4 past this instruction when the operands agree (41_control_flow.md R153, R155). -/
theorem skipIf_beq_pc (s : State) (a b : Byte) : (s.skipIf (a == b)).pc = if a = b then s.pc + 4 else s.pc + 2 := by
  by_cases h : a = b <;> simp [skipIf_eq, h]

/-- The skip of SNE: 4 past this instruction when the operands differ (41_control_flow.md R154, R156). -/
theorem skipIf_bne_pc (s : State) (a b : Byte) : (s.skipIf (a != b)).pc = if a = b then s.pc + 2 else s.pc + 4 := by
  by_cases h : a = b <;> simp [skipIf_eq, h]

/-! ## The statements -/

/-- Settles O13: each instruction checks SP before it does anything. -/
theorem stackFaultsAreRaised : Obligations.StackFaultsAreRaised :=
  ⟨fun _ nnn h => exec_callNnn_overflow h nnn, fun _ h => exec_ret_underflow h, rfl, rfl⟩

/-- Settles O25: the 12-bit target is widened, not changed. -/
theorem jumpSetsPc : Obligations.JumpSetsPc := fun s nnn =>
  ⟨toNat_nnn 0x1 nnn, _, rfl, BitVec.toNat_setWidth_of_le (by decide), frame_setPc s _⟩

/-- Settles O26: the sum of a 12-bit and an 8-bit number fits pc. -/
theorem jumpWithOffsetAddsV0 : Obligations.JumpWithOffsetAddsV0 := fun s nnn =>
  ⟨toNat_nnn 0xB nnn, _, rfl, toNat_offsetTarget_eq nnn (s.getV 0), frame_setPc s _⟩

/-- Settles O27: with an entry free the call is a push of pc followed by the jump. -/
theorem callPushesItsOwnAddress : Obligations.CallPushesItsOwnAddress := by
  intro s nnn k hk
  have hfree : s.sp.val < 16 := hk ▸ k.isLt
  refine ⟨toNat_nnn 0x2 nnn, _, exec_callNnn hfree nnn, ?_, push_sp_val hfree s.pc,
    BitVec.toNat_setWidth_of_le (by decide), (frame_push s s.pc k hk).setPc _⟩
  rw [setPc_stack, push_stack_get, if_pos (eq_wrap_sp hk)]

/-- Settles O28: with an entry in use the return is a pop followed by a jump 2 past the entry. -/
theorem returnPopsAndAddsTwo : Obligations.ReturnPopsAndAddsTwo := by
  intro s k hk
  have hused : 0 < s.sp.val := by omega
  refine ⟨rfl, _, exec_ret hused, ?_, congrArg (· + 2) (top_of_sp hk), (frame_pop s).setPc _⟩
  calc (s.pop.setPc (s.top + 2)).sp.val
    _ = s.sp.val - 1 := pop_sp_val hused
    _ = k.val := by omega

/-- Settles O30: both skips compare Vx with the immediate. -/
theorem skipOnImmediate : Obligations.SkipOnImmediate := fun s x nn =>
  ⟨toNat_xnn 0x3 x nn, toNat_xnn 0x4 x nn,
    ⟨_, rfl, skipIf_beq_pc s (s.getV x) nn, frame_skipIf s _⟩,
    ⟨_, rfl, skipIf_bne_pc s (s.getV x) nn, frame_skipIf s _⟩⟩

/-- Settles O31: both skips compare Vx with Vy. -/
theorem skipOnRegisters : Obligations.SkipOnRegisters := fun s x y =>
  ⟨toNat_xyn 0x5 0x0 x y, toNat_xyn 0x9 0x0 x y,
    ⟨_, rfl, skipIf_beq_pc s (s.getV x) (s.getV y), frame_skipIf s _⟩,
    ⟨_, rfl, skipIf_bne_pc s (s.getV x) (s.getV y), frame_skipIf s _⟩⟩

end Sys2Proof.Machine

/-!
The arithmetic family: loads, bitwise and arithmetic instructions with their flags, and the random byte
(42_alu.md, O32, O33, O34, O35, O36).
-/
namespace Sys2Proof.Machine

/-! ## The flag VF as a number (42_alu.md R170) -/

section Flags

variable (a b : Byte)

theorem toNat_flagByte (c : Bool) : (flagByte c).toNat = c.toNat := by cases c <;> rfl

theorem toNat_flagByte_decide (p : Prop) [Decidable p] : (flagByte (decide p)).toNat = if p then 1 else 0 := by
  by_cases h : p <;> simp [flagByte, h]

theorem toNat_flag_carry : (flagByte (carry a b)).toNat = if 255 < a.toNat + b.toNat then 1 else 0 :=
  toNat_flagByte_decide _

theorem toNat_flag_greater : (flagByte (greater a b)).toNat = if b.toNat < a.toNat then 1 else 0 :=
  toNat_flagByte_decide _

theorem toNat_flag_lowBit : (flagByte (lowBit a)).toNat = a.toNat % 2 :=
  calc (flagByte (lowBit a)).toNat
    _ = a.toNat / 2 ^ 0 % 2 := (toNat_flagByte _).trans (Nat.toNat_testBit ..)
    _ = a.toNat % 2 := by rw [Nat.pow_zero, Nat.div_one]

/-- The top bit of a byte is all that is left above its seven low bits. -/
theorem toNat_flag_highBit : (flagByte (highBit a)).toNat = a.toNat / 128 :=
  calc (flagByte (highBit a)).toNat
    _ = a.toNat / 2 ^ 7 % 2 := (toNat_flagByte _).trans (Nat.toNat_testBit ..)
    _ = a.toNat / 128 := by omega

end Flags

/-! ## The results as numbers -/

/-- The difference of two bytes modulo 256, written without a negative number (42_alu.md R180, R182). -/
theorem toNat_sub_bytes (a b : Byte) : (a - b).toNat = (a.toNat + 256 - b.toNat) % 256 := by
  rw [BitVec.toNat_sub]
  omega

theorem toNat_shiftRight_one (a : Byte) : (a >>> 1).toNat = a.toNat / 2 := by
  rw [BitVec.toNat_ushiftRight, Nat.shiftRight_eq_div_pow, Nat.pow_one]

theorem toNat_shiftLeft_one (a : Byte) : (a <<< 1).toNat = 2 * a.toNat % 256 := by
  rw [BitVec.toNat_shiftLeft, Nat.shiftLeft_eq, Nat.pow_one, Nat.mul_comm]

/-! ## The words of family 8 (30_encoding.md R107) -/

/-- The number of an 8xys word, its fixed nibbles first. -/
theorem toNat_family8 (s : BitVec 4) (x y : Reg) :
    (0x8#4 ++ regField x ++ regField y ++ s : Word).toNat = 0x8000 + s.toNat + x.val * 0x100 + y.val * 0x10 := by
  rw [toNat_xyn, BitVec.toNat_ofNat]
  omega

/-! ## What the shared write-backs answer -/

section WriteBack

variable {s : State} {ins : Instr} {x : Reg} {r : Byte} {flag : Bool} {m k : Nat}

/-- An instruction that writes one byte to Vx and advances changes no other register, so VF is no flag
(42_alu.md R176 to R178). -/
theorem exists_of_exec_setV {bits : Fin 8 → Bool} (h : exec ins s = .next (s.setV x r).advance)
    (hr : ∀ j : Fin 8, r[j] = bits j) :
    ∃ t, exec ins s = .next t ∧ (∀ j : Fin 8, (t.getV x)[j] = bits j) ∧ t.pc = s.pc + 2 ∧
      Frame (fun p => p = .pc ∨ p = .v x) s t :=
  ⟨_, h, fun j => (congrArg (·[j]) (getV_setV_self s x r)).trans (hr j), rfl, (frame_setV s x r).advance⟩

/-- VF holds the flag whatever the destination, since it is written last (42_alu.md R172). -/
theorem getV_setResult_flag (s : State) (x : Reg) (r : Byte) (flag : Bool) :
    (s.setResult x r flag).getV regF = flagByte flag := by
  rw [getV_setResult, if_pos rfl]

theorem getV_setResult_dest (hx : x ≠ regF) : (s.setResult x r flag).getV x = r := by
  rw [getV_setResult, if_neg hx, if_pos rfl]

/-- For x other than F the result and the flag land in two registers (42_alu.md R170). -/
theorem exists_of_exec_setResult (hx : x ≠ regF) (h : exec ins s = .next (s.setResult x r flag).advance) (hr : r.toNat = m)
    (hf : (flagByte flag).toNat = k) :
    ∃ t, exec ins s = .next t ∧ (t.getV x).toNat = m ∧ (t.getV 0xF).toNat = k ∧ t.pc = s.pc + 2 ∧
      Frame (fun p => p = .pc ∨ p = .v x ∨ p = .v 0xF) s t :=
  ⟨_, h, (congrArg BitVec.toNat (getV_setResult_dest hx)).trans hr,
    (congrArg BitVec.toNat (getV_setResult_flag s x r flag)).trans hf, rfl, (frame_setResult s x r flag).advance⟩

/-- For x = F the flag overwrites the result (42_alu.md R172). -/
theorem exists_of_exec_setResult_regF (h : exec ins s = .next (s.setResult regF r flag).advance)
    (hf : (flagByte flag).toNat = k) :
    ∃ t, exec ins s = .next t ∧ (t.getV 0xF).toNat = k ∧ t.pc = s.pc + 2 ∧ Frame (fun p => p = .pc ∨ p = .v 0xF) s t :=
  ⟨_, h, (congrArg BitVec.toNat (getV_setResult_flag s regF r flag)).trans hf, rfl,
    ((frame_setResult s regF r flag).mono fun _ => or_self_iff.1).advance⟩

end WriteBack

/-! ## The random byte -/

section RandomByte

variable {s : State}

/-- The byte the host has supplied is the one drawn (60_exceptions.md R278). -/
theorem drawn_of_supplied {r : Byte} (h : s.randomIn = some r) : s.drawn = r := by rw [State.drawn, h, Option.getD_some]

theorem drawn_of_not_supplied (h : s.randomIn = none) : s.drawn = Config.randomByte s.draws := by
  rw [State.drawn, h, Option.getD_none]

end RandomByte

/-! ## The statements -/

/-- Settles O32: all three write one byte to Vx and nothing to VF as a flag. -/
theorem loadsAndImmediateAdd : Obligations.LoadsAndImmediateAdd := fun s x y nn =>
  ⟨toNat_xnn 0x6 x nn, toNat_xnn 0x7 x nn, toNat_family8 0x0 x y,
    ⟨_, rfl, getV_setV_self s x nn, rfl, (frame_setV s x nn).advance⟩,
    ⟨_, rfl, (congrArg BitVec.toNat (getV_setV_self s x _)).trans (BitVec.toNat_add ..), rfl, (frame_setV s x _).advance⟩,
    ⟨_, rfl, getV_setV_self s x _, rfl, (frame_setV s x _).advance⟩⟩

/-- Settles O33: each bit of the result is the operation on the two bits in its place. -/
theorem bitwiseOperationsLeaveTheFlag : Obligations.BitwiseOperationsLeaveTheFlag := fun _ x y =>
  ⟨toNat_family8 0x1 x y, toNat_family8 0x2 x y, toNat_family8 0x3 x y,
    exists_of_exec_setV rfl fun j => BitVec.getElem_or j.isLt,
    exists_of_exec_setV rfl fun j => BitVec.getElem_and j.isLt,
    exists_of_exec_setV rfl fun j => BitVec.getElem_xor j.isLt⟩

/-- Settles O34: the results modulo 256 and the flags, in two registers since x is not F. -/
theorem arithmeticSetsResultAndFlag : Obligations.ArithmeticSetsResultAndFlag := fun _ x y =>
  ⟨toNat_family8 0x4 x y, toNat_family8 0x5 x y, toNat_family8 0x6 x y, toNat_family8 0x7 x y, toNat_family8 0xE x y,
    fun hx =>
      ⟨exists_of_exec_setResult hx rfl (BitVec.toNat_add ..) (toNat_flag_carry ..),
        exists_of_exec_setResult hx rfl (toNat_sub_bytes ..) (toNat_flag_greater ..),
        exists_of_exec_setResult hx rfl (toNat_sub_bytes ..) (toNat_flag_greater ..),
        exists_of_exec_setResult hx rfl (toNat_shiftRight_one _) (toNat_flag_lowBit _),
        exists_of_exec_setResult hx rfl (toNat_shiftLeft_one _) (toNat_flag_highBit _)⟩⟩

/-- Settles O35: the flag is computed from the operands as they were and written over the result. -/
theorem flagWinsWhenTheDestinationIsVF : Obligations.FlagWinsWhenTheDestinationIsVF := fun _ _ =>
  ⟨exists_of_exec_setResult_regF rfl (toNat_flag_carry ..),
    exists_of_exec_setResult_regF rfl (toNat_flag_greater ..),
    exists_of_exec_setResult_regF rfl (toNat_flag_greater ..),
    exists_of_exec_setResult_regF rfl (toNat_flag_lowBit _),
    exists_of_exec_setResult_regF rfl (toNat_flag_highBit _)⟩

/-- Settles O36: the draw is counted and consumed before the masked byte is written. -/
theorem randomByteIsMasked : Obligations.RandomByteIsMasked := by
  intro s x nn
  have hframe := (frame_afterDraw s).trans (frame_setV s.afterDraw x (s.drawn &&& nn))
  refine ⟨toNat_xnn 0xC x nn, _, rfl, (getV_setV_self s.afterDraw x _).trans ?_, rfl, rfl, rfl,
    (hframe.mono fun _ => Or.symm).advance⟩
  cases h : s.randomIn with
  | some r => rw [drawn_of_supplied h]
  | none => rw [drawn_of_not_supplied h]

end Sys2Proof.Machine

/-!
The index and memory-transfer family: I, its arithmetic, and the digits and register blocks moved at I
(43_index_memory.md, O37, O38, O42, O43, O44).
-/
namespace Sys2Proof.Machine

/-! ## The words of family F (30_encoding.md R109) -/

/-- The number of an Fxss word, its fixed fields first. -/
theorem toNat_familyF (ss : Byte) (x : Reg) :
    (0xF#4 ++ regField x ++ ss : Word).toNat = 0xF000 + ss.toNat + x.val * 0x100 := by
  rw [toNat_xnn, BitVec.toNat_ofNat]
  omega

/-! ## What is written to I and to memory, as numbers -/

section Numbers

variable (v : Byte)

theorem toNat_byteToWord : (v.setWidth 16 : Word).toNat = v.toNat := BitVec.toNat_setWidth_of_le (by decide)

/-- Five bytes a glyph fit I for every byte, which is not masked (43_index_memory.md R202). -/
theorem toNat_glyphAddr : (glyphAddr v).toNat = v.toNat * 5 := by
  have hfive : (5 : Word).toNat = 5 := rfl
  rw [glyphAddr, BitVec.toNat_mul, toNat_byteToWord, hfive]
  omega

/-- The address in I moves by Vx modulo 2^16 (43_index_memory.md R201). -/
theorem toNat_add_byteToWord (w : Word) : (w + v.setWidth 16).toNat = (w.toNat + v.toNat) % 65536 := by
  rw [BitVec.toNat_add, toNat_byteToWord]

/-- A number of at most the value of a byte is the byte it is stored as (43_index_memory.md R203). -/
theorem toNat_ofNat_of_le {d : Nat} (h : d ≤ v.toNat) : (BitVec.ofNat 8 d).toNat = d :=
  (BitVec.toNat_ofNat ..).trans (Nat.mod_eq_of_lt (h.trans_lt v.isLt))

theorem toNat_hundreds : ((bcdDigits v).getD 0 0).toNat = v.toNat / 100 :=
  toNat_ofNat_of_le v (Nat.div_le_self ..)

theorem toNat_tens : ((bcdDigits v).getD 1 0).toNat = v.toNat / 10 % 10 :=
  toNat_ofNat_of_le v ((Nat.mod_le ..).trans (Nat.div_le_self ..))

theorem toNat_units : ((bcdDigits v).getD 2 0).toNat = v.toNat % 10 :=
  toNat_ofNat_of_le v (Nat.mod_le ..)

end Numbers

section Transfers

variable {s t : State} {ins : Instr} {x : Reg}

/-! ## An instruction that advances -/

/-- An instruction that advances pc has not faulted, since fault entry leaves pc alone, so it changes only what its
rule names (60_exceptions.md R264, R265). -/
theorem frame_writes_of_advance (h : exec ins s = .next t) (hpc : t.pc = s.pc + 2) : Frame (Writes ins s) s t := by
  refine (everyInstructionKeepsItsFrame s t ins h).resolve_left fun hf => ?_
  have hsame : t.pc = s.pc := hf .pc (by simp [Part.faultStatus])
  rw [hpc] at hsame
  bv_omega

/-- An instruction that writes I and advances changes nothing else, so VF is no flag (43_index_memory.md R200 to R202). -/
theorem exists_of_exec_setI {w : Word} {n : Nat} (h : exec ins s = .next (s.setI w).advance) (hw : w.toNat = n) :
    ∃ t, exec ins s = .next t ∧ t.i.toNat = n ∧ t.pc = s.pc + 2 ∧ Frame (fun p => p = .pc ∨ p = .i) s t :=
  ⟨_, h, hw, rfl, (frame_setI s w).advance⟩

/-! ## Stores and loads at I -/

/-- A byte of a stored block reads back where it lands (20_memory.md R74, R77). -/
theorem read_storeBytes_of_lands {bs : List Byte} {j : Nat} (hj : j < bs.length) (hlands : WriteLands s (s.i.toNat + j)) :
    (s.storeBytes (s.ea 0) bs).mem.read (s.i.toNat + j) = bs.getD j 0 := by
  have hea : s.ea 0 = s.i.toNat := rfl
  rw [read_storeBytes, hea, if_pos, Nat.add_sub_cancel_left]
  exact ⟨⟨by omega, by omega⟩, fun h => hlands ⟨Nat.le_of_lt_succ h.1, h.2⟩⟩

/-- A digit reads back as its number where it lands (43_index_memory.md R203). -/
theorem toNat_read_digit {j d : Nat} (hj : j < 3) (hd : ((bcdDigits (s.getV x)).getD j 0).toNat = d)
    (hlands : WriteLands s (s.i.toNat + j)) :
    ((s.storeBytes (s.ea 0) (bcdDigits (s.getV x))).mem.read (s.i.toNat + j)).toNat = d := by
  rw [read_storeBytes_of_lands hj hlands, hd]

theorem exec_ldBVx (h : StoreAllowed s 3) :
    exec (.ldBVx x) s = .next (s.storeBytes (s.ea 0) (bcdDigits (s.getV x))).advance := by
  rw [exec, execLdBVx, (storeFault_none (by decide)).2 h, checked_none]

theorem exec_ldVxMem (h : s.i.toNat + x.val < 0x1000) :
    exec (.ldVxMem x) s = .next (s.loadBlock (blockSize x)).advance := by
  have hnone : s.rangeFault (blockSize x) = none := rangeFault_none.2 (.inr h)
  rw [exec, execLdVxMem, hnone, checked_none]

theorem storeBytes_advance_pc (bs : List Byte) (s : State) (a : Nat) : (s.storeBytes a bs).advance.pc = s.pc + 2 :=
  congrArg (· + 2) (storeBytes_pc bs s a)

theorem loadBlock_advance_pc (s : State) (n : Nat) : (s.loadBlock n).advance.pc = s.pc + 2 := by
  rw [loadBlock_eq]
  rfl

end Transfers

/-! ## The statements -/

/-- Settles O37: nnn is widened and 5 times a byte fits, so both numbers reach I unchanged. -/
theorem setIndexRegister : Obligations.SetIndexRegister := fun s x nnn =>
  ⟨toNat_nnn 0xA nnn, toNat_familyF 0x29 x,
    exists_of_exec_setI rfl (BitVec.toNat_setWidth_of_le (by decide)),
    exists_of_exec_setI rfl (toNat_glyphAddr (s.getV x))⟩

/-- Settles O38: the sum is taken in the 16 bits of I. -/
theorem addToIndexWraps : Obligations.AddToIndexWraps := fun s x =>
  ⟨toNat_familyF 0x1E x, exists_of_exec_setI rfl (toNat_add_byteToWord (s.getV x) s.i)⟩

/-- Settles O42: each digit reads back where it lands, and an allowed store advances. -/
theorem digitsAreStored : Obligations.DigitsAreStored := by
  refine fun s x => ⟨toNat_familyF 0x33 x, fun h => ?_⟩
  have hpc := storeBytes_advance_pc (bcdDigits (s.getV x)) s (s.ea 0)
  exact ⟨_, exec_ldBVx h, toNat_read_digit (j := 0) (by decide) (toNat_hundreds _),
    toNat_read_digit (by decide) (toNat_tens _), toNat_read_digit (by decide) (toNat_units _), hpc,
    frame_writes_of_advance (exec_ldBVx h) hpc⟩

/-- Settles O43: the block reads back as the registers it came from, and an allowed store advances. -/
theorem registerBlockIsStored : Obligations.RegisterBlockIsStored := by
  refine fun s x => ⟨toNat_familyF 0x55 x, fun h => ?_⟩
  have hpc := storeBytes_advance_pc (s.blockBytes (blockSize x)) s (s.ea 0)
  exact ⟨_, exec_ldMemVx h, fun k hk hlands => read_storeBlock hk hlands, hpc, frame_writes_of_advance (exec_ldMemVx h) hpc⟩

/-- Settles O44: the registers up to Vx hold the bytes at I, and a load in range advances. -/
theorem registerBlockIsLoaded : Obligations.RegisterBlockIsLoaded := by
  refine fun s x => ⟨toNat_familyF 0x65 x, fun h => ?_⟩
  have hpc := loadBlock_advance_pc s (blockSize x)
  refine ⟨_, exec_ldVxMem h, fun k hk => ?_, hpc, frame_writes_of_advance (exec_ldVxMem h) hpc⟩
  have hlt : k.val < blockSize x := Nat.lt_succ_of_le hk
  rw [advance_eq, getV_setPc, getV_loadBlock s (blockSize x) x.isLt, if_pos hlt]

end Sys2Proof.Machine

/-!
The display family: clearing the display, and drawing a sprite once, on a clear display, and twice
(44_display.md, O24, O46, O47, O48).
-/
namespace Sys2Proof.Machine

/-! ## The display and the flag -/

/-- A display is its pixels (10_state.md R44). -/
theorem display_ext {d e : Display} (h : ∀ row col, d.pixel row col = e.pixel row col) : d = e :=
  Vector.ext fun r hr => Vector.ext fun c hc => h ⟨r, hr⟩ ⟨c, hc⟩

theorem flagByte_eq_one {c : Bool} : flagByte c = 1 ↔ c = true := by cases c <;> decide

theorem flagByte_eq_zero {c : Bool} : flagByte c = 0 ↔ ¬ c = true := by cases c <;> decide

/-! ## One draw -/

section Draw

variable {s t : State} {x y : Reg} {n : BitVec 4}

theorem rows_le_display (s : State) (n : BitVec 4) : 0 + (s.mem.readBytes (s.ea 0) n.toNat).length ≤ 32 := by
  rw [length_readBytes]
  omega

/-- The drawing loops XOR the closed picture of the sprite onto the display (44_display.md R221, R222). -/
theorem pixel_sprited (s : State) (x y : Reg) (n : BitVec 4) (row : Fin 32) (col : Fin 64) :
    (s.sprited x y n.toNat).1.pixel row col = (s.display.pixel row col != spriteBit s x y n.toNat row col) := by
  rw [State.sprited, pixel_drawRows _ _ _ _ (rows_le_display s n), spriteBits_eq]

/-- The drawing loops report a collision exactly when the closed picture meets a lit pixel (44_display.md R223). -/
theorem hit_sprited : (s.sprited x y n.toNat).2 = true ↔
    ∃ row col, spriteBit s x y n.toNat row col = true ∧ s.display.pixel row col = true := by
  simp only [State.sprited, hit_drawRows _ _ _ _ (rows_le_display s n), spriteBits_eq, Bool.false_eq_true, false_or]

/-- The state a draw in range answers (44_display.md R221). -/
def State.withSprite (s : State) (x y : Reg) (n : BitVec 4) : State :=
  ((s.setDisplay (s.sprited x y n.toNat).1).setV regF (flagByte (s.sprited x y n.toNat).2)).advance

theorem exec_drwVxVyN (h : n = 0 ∨ s.i.toNat + n.toNat ≤ 0x1000) :
    exec (.drwVxVyN x y n) s = .next (s.withSprite x y n) := by
  have hnone : s.rangeFault n.toNat = none := rangeFault_none.2 (h.imp_left (congrArg BitVec.toNat))
  rw [exec, execDrwVxVyN, hnone, checked_none, State.withSprite]

theorem getV_withSprite_regF : (s.withSprite x y n).getV 0xF = flagByte (s.sprited x y n.toNat).2 :=
  getV_setV_self _ regF _

/-- A second draw sees the sprite of the first unless VF holds a coordinate (44_display.md R221, decision D17). -/
theorem spriteBit_of_frame (h : Frame (fun p => p = .pc ∨ p = .v 0xF ∨ ∃ row col, p = .pixel row col) s t)
    (hx : x ≠ 0xF) (hy : y ≠ 0xF) (n : Nat) (row : Fin 32) (col : Fin 64) :
    spriteBit t x y n row col = spriteBit s x y n row col := by
  have hVx : t.getV x = s.getV x := h (.v x) (by simp [hx])
  have hVy : t.getV y = s.getV y := h (.v y) (by simp [hy])
  have hi : t.i = s.i := h .i (by simp)
  have hread : ∀ a, t.mem.read a = s.mem.read a := fun a => h (.memory a) (by simp)
  simp only [spriteBit, hVx, hVy, hi, hread]

end Draw

/-! ## The statements -/

/-- Settles O46: the drawing loops agree with the closed picture, and a draw in range advances. -/
theorem drawXorsTheSprite : Obligations.DrawXorsTheSprite := by
  refine fun s x y n => ⟨toNat_xyn 0xD n x y, fun h => ?_⟩
  have hexec := exec_drwVxVyN (x := x) (y := y) h
  refine ⟨_, hexec, pixel_sprited s x y n, ?_, ?_, rfl, (frame_writes_of_advance hexec rfl).mono fun p hp => ?_⟩
  · rw [getV_withSprite_regF, flagByte_eq_one, hit_sprited]
  · rw [getV_withSprite_regF, flagByte_eq_zero, hit_sprited]
  · exact hp.imp_right (Or.imp_right fun ⟨row, col, hpixel, _⟩ => ⟨row, col, hpixel⟩)

/-- Settles O24: the new display is clear, and the instruction advances. -/
theorem clearDisplayClearsEveryPixel : Obligations.ClearDisplayClearsEveryPixel :=
  ⟨rfl, fun _ => ⟨_, rfl, pixel_clear, rfl, frame_writes_of_advance (ins := .cls) rfl rfl⟩⟩

/-- Settles O47: no pixel is lit for a sprite bit to meet, and I still points at a sprite in memory. -/
theorem firstDrawOnClearDisplayDoesNotCollide : Obligations.FirstDrawOnClearDisplayDoesNotCollide := by
  intro s x y n h
  obtain ⟨-, hcls⟩ := clearDisplayClearsEveryPixel
  obtain ⟨t, ht, hclear, -, hframe⟩ := hcls s
  have hi : t.i = s.i := hframe .i (by simp)
  obtain ⟨u, hu, -, -, hzero, -, -⟩ := (drawXorsTheSprite t x y n).2 (hi ▸ h)
  refine ⟨t, u, ht, hu, hzero.2 ?_⟩
  rintro ⟨row, col, -, hlit⟩
  exact Bool.false_ne_true ((hclear row col).symm.trans hlit)

/-- Settles O48: both draws XOR the same sprite, so the second undoes the first and meets the pixels the first lit. -/
theorem drawingTwiceRestoresTheDisplay : Obligations.DrawingTwiceRestoresTheDisplay := by
  intro s x y n hx hy h
  obtain ⟨t, ht, hpixel, -, -, -, hframe⟩ := (drawXorsTheSprite s x y n).2 h
  have hi : t.i = s.i := hframe .i (by simp)
  have hbit := spriteBit_of_frame hframe hx hy n.toNat
  obtain ⟨u, hu, hpixel', hone, -, -, -⟩ := (drawXorsTheSprite t x y n).2 (hi ▸ h)
  refine ⟨t, u, ht, hu, display_ext fun row col => ?_, hone.trans ?_⟩
  · rw [hpixel', hpixel, hbit, Bool.bne_assoc, bne_self_eq_false, Bool.bne_false]
  · refine exists₂_congr fun row col => ?_
    rw [hbit, hpixel]
    refine and_congr_right fun hset => ?_
    rw [hset, Bool.bne_true, Bool.not_eq_true']

end Sys2Proof.Machine

/-!
The timer and keypad family: the moves between a register and a timer, the skips on a key, their fault, and the wait for
a key (45_timers_keys.md, O16, O39, O40, O41).
-/
namespace Sys2Proof.Machine

/-! ## The words of family E (30_encoding.md R108) -/

/-- The number of an Exss word, its fixed fields first. -/
theorem toNat_familyE (ss : Byte) (x : Reg) :
    (0xE#4 ++ regField x ++ ss : Word).toNat = 0xE000 + ss.toNat + x.val * 0x100 := by
  rw [toNat_xnn, BitVec.toNat_ofNat]
  omega

section TimersKeys

variable {s u : State} {ins : Instr} {x : Reg} {v : Byte} {k : Key}

/-! ## The key that a value selects (45_timers_keys.md R246) -/

/-- A value names a key without a fault when it is at most 15 or is masked. -/
theorem keyFault_none : s.keyFault v = none ↔ v.toNat ≤ 15 ∨ s.params.keyIndex = .mask := by
  have hmask : s.params.keyIndex = .mask ↔ ¬ s.params.keyIndex = .fault := by cases s.params.keyIndex <;> decide
  rw [State.keyFault, hmask, ← Nat.not_lt, ← not_and_or, ite_eq_right_iff]
  simp only [reduceCtorEq, imp_false]

/-- A key skip on a value above 15 under `P_KEY_INDEX = fault` tests no key. -/
theorem checked_keyFault (hv : 15 < v.toNat) (hp : s.params.keyIndex = .fault) (body : State) :
    s.checked (s.keyFault v) body = .next (Faulted s .keyRange (wordAtPc s) v.toNat) := by
  rw [State.keyFault, if_pos ⟨hv, hp⟩, checked_some, raise_eq]

theorem keyIndex_of_mod (hk : k.val = v.toNat % 16) : keyIndex v = k := Fin.ext hk.symm

/-! ## The key skips -/

theorem exec_skpVx (hk : k.val = (s.getV x).toNat % 16) (h : (s.getV x).toNat ≤ 15 ∨ s.params.keyIndex = .mask) :
    exec (.skpVx x) s = .next (s.skipIf (s.getKey k)) := by
  rw [exec, execSkpVx, keyFault_none.2 h, checked_none, keyIndex_of_mod hk]

theorem exec_sknpVx (hk : k.val = (s.getV x).toNat % 16) (h : (s.getV x).toNat ≤ 15 ∨ s.params.keyIndex = .mask) :
    exec (.sknpVx x) s = .next (s.skipIf (!s.getKey k)) := by
  rw [exec, execSknpVx, keyFault_none.2 h, checked_none, keyIndex_of_mod hk]

/-- The skip of SKP: 4 past this instruction when the test holds (45_timers_keys.md R240). -/
theorem skipIf_pc (s : State) (c : Bool) : (s.skipIf c).pc = if c = true then s.pc + 4 else s.pc + 2 := by
  cases c <;> rfl

/-- The skip of SKNP: 4 past this instruction when the test fails (45_timers_keys.md R241). -/
theorem skipIf_not_pc (s : State) (c : Bool) : (s.skipIf (!c)).pc = if c = true then s.pc + 2 else s.pc + 4 := by
  cases c <;> rfl

/-! ## The wait for a key (45_timers_keys.md R243) -/

theorem exec_ldVxK_of_none (h : s.lowestKey = none) : exec (.ldVxK x) s = .next s := by
  rw [exec, execLdVxK, h]

theorem exec_ldVxK_of_some (h : s.lowestKey = some k) :
    exec (.ldVxK x) s = .next (s.setV x (BitVec.ofNat 8 k.val)).advance := by
  rw [exec, execLdVxK, h]

theorem toNat_keyByte (k : Key) : (BitVec.ofNat 8 k.val).toNat = k.val :=
  (BitVec.toNat_ofNat ..).trans (Nat.mod_eq_of_lt (by omega))

/-! ## A step that ends with the tick -/

/-- A fetched instruction that leaves the block running is followed by the tick (40_step_cycle.md R134). -/
theorem step_eq_tick (hf : Fetches s ins) (hu : exec ins s = .next u) (hrun : u.halted = false) :
    step s = .next u.tick := by
  rw [step_of_fetches hf hu, afterStep_of_running hrun]

end TimersKeys

/-! ## The statements -/

/-- Settles O16: both skips check the index before they test a key. -/
theorem keyIndexFaultsUnderItsPolicy : Obligations.KeyIndexFaultsUnderItsPolicy := fun _ _ hv hp =>
  ⟨checked_keyFault hv hp _, checked_keyFault hv hp _, rfl⟩

/-- Settles O39: Fx07 copies DT before the tick, and the tick counts down what Fx15 and Fx18 have written. -/
theorem timerInstructionsMoveTheTimers : Obligations.TimerInstructionsMoveTheTimers := by
  refine fun s x => ⟨toNat_familyF 0x07 x, toNat_familyF 0x15 x, toNat_familyF 0x18 x,
    ⟨_, rfl, getV_setV_self s x s.dt, rfl, (frame_setV s x s.dt).advance⟩,
    ⟨_, rfl, rfl, rfl, (frame_setDt s (s.getV x)).advance⟩,
    ⟨_, rfl, rfl, rfl, (frame_setSt s (s.getV x)).advance⟩,
    fun hf => ?_, fun hf => ?_, fun hf => ?_⟩
  · exact ⟨_, step_eq_tick hf rfl hf.1, getV_setV_self s x s.dt, countdown_toNat s.dt⟩
  · exact ⟨_, step_eq_tick hf rfl hf.1, countdown_toNat (s.getV x)⟩
  · exact ⟨_, step_eq_tick hf rfl hf.1, countdown_toNat (s.getV x)⟩

/-- Settles O40: an index that does not fault selects key Vx mod 16, and the skips test that key. -/
theorem skipOnKey : Obligations.SkipOnKey := fun s x =>
  ⟨toNat_familyE 0x9E x, toNat_familyE 0xA1 x, fun k hk h =>
    ⟨⟨_, exec_skpVx hk h, skipIf_pc s (s.getKey k), frame_skipIf s _⟩,
      ⟨_, exec_sknpVx hk h, skipIf_not_pc s (s.getKey k), frame_skipIf s _⟩⟩⟩

/-- Settles O41: the scan finds the lowest pressed key, whose index fits Vx, or no key at all. -/
theorem waitForKeyTakesTheLowestKey : Obligations.WaitForKeyTakesTheLowestKey :=
  ⟨toNat_familyF 0x0A, fun _ _ hnone => exec_ldVxK_of_none (lowestKey_none.2 hnone), fun s x k hk hlow =>
    ⟨_, exec_ldVxK_of_some (lowestKey_some.2 ⟨hk, hlow⟩),
      (congrArg BitVec.toNat (getV_setV_self s x _)).trans (toNat_keyByte k), rfl, (frame_setV s x _).advance⟩⟩

end Sys2Proof.Machine

/-!
The exceptions family: the faults of an instruction and of a step, the sticky halt, and the host interface around a step
(60_exceptions.md, O11, O12, O17, O53, O54, O55, O56, O57, O58).
-/
namespace Sys2Proof.Machine

/-! ## The check each instruction makes (60_exceptions.md R261, R265) -/

section InstructionFaults

variable {s t body : State} {ins : Instr} {f : Option (Cause × Nat)} {c : Cause} {n a : Nat}

/-- What an instruction checks before it writes anything; most instructions check nothing (60_exceptions.md R262). -/
def State.instrFault (s : State) : Instr → Option (Cause × Nat)
  | .ret => s.returnFault
  | .callNnn _ => s.callFault
  | .drwVxVyN _ _ n => s.rangeFault n.toNat
  | .skpVx x => s.keyFault (s.getV x)
  | .sknpVx x => s.keyFault (s.getV x)
  | .ldBVx _ => s.storeFault 3
  | .ldMemVx x => s.storeFault (blockSize x)
  | .ldVxMem x => s.rangeFault (blockSize x)
  | _ => none

/-- A checked instruction whose body leaves the block running halts only by the fault its check found. -/
theorem checked_halts (h : s.checked f body = .next t) (hbody : body.halted = false) (ht : t.halted = true) :
    ∃ c n, f = some (c, n) ∧ t = s.raise c n := by
  obtain hfault | ⟨-, rfl⟩ := checked_next h
  · exact hfault
  · cases hbody.symm.trans ht

/-- An instruction halts a running block only by the fault its check found. -/
theorem exec_halts (hrun : s.halted = false) (h : exec ins s = .next t) (ht : t.halted = true) :
    ∃ c n, s.instrFault ins = some (c, n) ∧ t = s.raise c n := by
  cases ins with
  | ret | callNnn _ | drwVxVyN _ _ _ | skpVx _ | sknpVx _ => exact checked_halts h hrun ht
  | ldBVx _ | ldMemVx _ => exact checked_halts h ((storeBytes_halted _ s (s.ea 0)).trans hrun) ht
  | ldVxMem x =>
    have hload : (s.loadBlock (blockSize x)).halted = s.halted := by rw [loadBlock_eq]
    exact checked_halts h (hload.trans hrun) ht
  | ldVxK x =>
    cases hk : s.lowestKey with
    | none => rw [exec_ldVxK_of_none hk] at h; cases h; cases hrun.symm.trans ht
    | some k => rw [exec_ldVxK_of_some hk] at h; cases h; cases hrun.symm.trans ht
  | _ => cases h; cases hrun.symm.trans ht

/-! ## The condition of each check (60_exceptions.md R261) -/

theorem returnFault_condition (h : s.returnFault = some (c, a)) : c = .stackUnderflow ∧ a = 0 ∧ s.sp.val = 0 := by
  cases returnFault_cause h
  refine ⟨rfl, rfl, Nat.eq_zero_of_not_pos fun hpos => ?_⟩
  cases (returnFault_none.2 hpos).symm.trans h

theorem callFault_condition (h : s.callFault = some (c, a)) : c = .stackOverflow ∧ a = 0 ∧ s.sp.val = 16 := by
  cases callFault_cause h
  have hfull : ¬ s.sp.val < 16 := fun hfree => by cases (callFault_none.2 hfree).symm.trans h
  exact ⟨rfl, rfl, by omega⟩

/-- An address below 2 ^ 17 is what FAULT_ADDR shows (10_state.md R46). -/
theorem toNat_faultAddr (h : a < 2 ^ 17) : (BitVec.ofNat 17 a).toNat = a := by rw [BitVec.toNat_ofNat, Nat.mod_eq_of_lt h]

theorem rangeFault_condition (hn : n ≤ 16) (h : s.rangeFault n = some (c, a)) :
    c = .dataRange ∧ 0 < n ∧ 0x1000 ≤ s.i.toNat + n - 1 ∧ (BitVec.ofNat 17 a).toNat = s.i.toNat + n - 1 := by
  have hfits := (rangeFault_cause hn h).2
  rw [rangeFault_eq] at h
  split at h <;> cases h
  next hlast => exact ⟨rfl, hlast.1, by omega, (toNat_faultAddr hfits).trans (by omega)⟩

theorem fontFault_condition (h : s.fontFault = some (c, a)) :
    c = .fontWrite ∧ s.params.fontWrite = .fault ∧ s.i.toNat ≤ 0x04F ∧ (BitVec.ofNat 17 a).toNat = s.i.toNat := by
  rw [fontFault_eq] at h
  split at h <;> cases h
  next hfont => exact ⟨rfl, hfont.2, by omega, toNat_faultAddr (by omega)⟩

/-- A store faults by its range check, or by the font check where the range is good (60_exceptions.md R263). -/
theorem storeFault_condition (hn : n ≤ 16) (h : s.storeFault n = some (c, a)) :
    (c = .dataRange ∧ 0 < n ∧ 0x1000 ≤ s.i.toNat + n - 1 ∧ (BitVec.ofNat 17 a).toNat = s.i.toNat + n - 1) ∨
    (c = .fontWrite ∧ s.params.fontWrite = .fault ∧ s.i.toNat ≤ 0x04F ∧ (BitVec.ofNat 17 a).toNat = s.i.toNat) := by
  rw [State.storeFault] at h
  cases hr : s.rangeFault n with
  | some g => rw [hr] at h; exact .inl (rangeFault_condition hn (hr.trans h))
  | none => rw [hr] at h; exact .inr (fontFault_condition h)

theorem keyFault_condition {v : Byte} (h : s.keyFault v = some (c, a)) :
    c = .keyRange ∧ s.params.keyIndex = .fault ∧ 15 < v.toNat ∧ (BitVec.ofNat 17 a).toNat = v.toNat := by
  have hfits := (keyFault_cause h).2
  rw [State.keyFault] at h
  split at h <;> cases h
  next hkey => exact ⟨rfl, hkey.2, hkey.1, toNat_faultAddr hfits⟩

end InstructionFaults

/-- Settles O12: an instruction halts by its own check, and each check has its row of the fault table. -/
theorem everyFaultHasItsCondition : Obligations.EveryFaultHasItsCondition := by
  intro s t ins hrun h ht
  obtain ⟨c, a, hf, rfl⟩ := exec_halts hrun h ht
  cases ins with
  | ret => obtain ⟨rfl, rfl, hsp⟩ := returnFault_condition hf; exact ⟨rfl, hsp, rfl⟩
  | callNnn nnn => obtain ⟨rfl, rfl, hsp⟩ := callFault_condition hf; exact ⟨⟨nnn, rfl⟩, hsp, rfl⟩
  | drwVxVyN x y n => obtain ⟨rfl, hcond⟩ := rangeFault_condition (Nat.le_of_lt n.isLt) hf; exact hcond
  | ldVxMem x => obtain ⟨rfl, hcond⟩ := rangeFault_condition x.isLt hf; exact hcond
  | ldBVx x =>
    obtain ⟨rfl, hcond⟩ | ⟨rfl, hcond⟩ := storeFault_condition (by decide) hf
    · exact hcond
    · exact ⟨⟨x, .inl rfl⟩, hcond⟩
  | ldMemVx x =>
    obtain ⟨rfl, hcond⟩ | ⟨rfl, hcond⟩ := storeFault_condition x.isLt hf
    · exact hcond
    · exact ⟨⟨x, .inr rfl⟩, hcond⟩
  | skpVx x => obtain ⟨rfl, hcond⟩ := keyFault_condition hf; exact ⟨x, .inl rfl, hcond⟩
  | sknpVx x => obtain ⟨rfl, hcond⟩ := keyFault_condition hf; exact ⟨x, .inr rfl, hcond⟩
  | _ => cases hf

/-! ## A step that faults -/

section FaultedStep

variable {s t : State} {ins : Instr}

/-- The fault table gives an instruction no row for NONE and none for FETCH_RANGE (60_exceptions.md R261). -/
theorem ofInstr_of_exec_halts (hrun : s.halted = false) (h : exec ins s = .next t) (ht : t.halted = true) :
    t.faultCause.ofInstr := by
  have hcond := everyFaultHasItsCondition s t ins hrun h ht
  constructor <;> intro hc <;> rw [hc] at hcond <;> exact hcond

/-- A running block halts in a step by a fetch past the end, or by a cause of the word at pc. -/
theorem step_halts (hrun : s.halted = false) (h : step s = .next t) (ht : t.halted = true) :
    t = s.fetchFault ∨ ∃ c n, c.ofInstr ∧ t = s.raise c n := by
  obtain ⟨hh, -⟩ | ⟨-, -, ht'⟩ | ⟨-, -, ins, u, -, hu, rfl⟩ | ⟨-, -, u, -, hu, rfl⟩ := step_cases h
  · cases hrun.symm.trans hh
  · exact .inl ht'
  · rw [afterStep_halted] at ht
    have hc := ofInstr_of_exec_halts hrun hu ht
    obtain ⟨c, n, -, rfl⟩ := exec_halts hrun hu ht
    exact .inr ⟨c, n, hc, afterStep_of_halted ht⟩
  · rw [afterStep_halted] at ht
    obtain ⟨-, rfl⟩ | ⟨-, rfl⟩ | ⟨-, rfl⟩ := unknownOpcode_cases hu
    · cases hrun.symm.trans ht
    · cases hrun.symm.trans ht
    · exact .inr ⟨.unknownOpcode, 0, ⟨nofun, nofun⟩, afterStep_of_halted ht⟩

end FaultedStep

/-- Settles O11: a step halts by fault entry in the state before it. -/
theorem faultedStepIsPrecise : Obligations.FaultedStepIsPrecise := by
  intro s t hrun h ht
  obtain rfl | ⟨c, n, ⟨hnone, hfetch⟩, rfl⟩ := step_halts hrun h ht
  · exact ⟨nofun, rfl⟩
  · refine ⟨hnone, ?_⟩
    rw [if_neg (c := (s.raise c n).faultCause = .fetchRange) hfetch]
    rfl

/-! ## Safe runs -/

section SafeRuns

variable {s t : State} {n : Nat}

theorem run_succ {M : Host.Core} {s t : M.State} (h : M.step s = .next t) (n : Nat) : M.run (n + 1) s = M.run n t := by
  rw [Host.Core.run, h]

/-- A halted block stays as it is, however many steps it is given (40_step_cycle.md R139). -/
theorem run_halted (h : s.halted = true) (n : Nat) : Sys2Proof.core.run n s = .next s := by
  induction n with
  | zero => rfl
  | succ n ih => exact (run_succ (M := Sys2Proof.core) (step_halted h) n).trans ih

theorem safeRun_succ (h : step s = .next t) : SafeRun (n + 1) s ↔ SafeRun n t := by
  rw [SafeRun, SafeRun, run_succ (M := Sys2Proof.core) h]

/-- A block that is running at the end of a run was running at its start. -/
theorem SafeRun.zero (h : SafeRun n s) : SafeRun 0 s := by
  refine ⟨s, rfl, Bool.eq_false_iff.2 fun hhalted => ?_⟩
  obtain ⟨t, hrun, ht⟩ := h
  rw [run_halted hhalted] at hrun
  cases hrun
  cases hhalted.symm.trans ht

end SafeRuns

/-- Settles O17, by induction on the steps before the one in question. -/
theorem faultsAreSticky : Obligations.FaultsAreSticky := by
  intro n m
  induction n with
  | zero => exact fun _ h => h.zero
  | succ n ih =>
    intro s h
    obtain ⟨t, ht⟩ := stepAlwaysAnswersNext s
    rw [Nat.add_right_comm, safeRun_succ ht] at h
    exact (safeRun_succ ht).2 (ih t h)

/-! ## The random byte of a step (60_exceptions.md R278) -/

/-- The state with the random byte of the coming step supplied or taken back. -/
def State.supply (s : State) (r : Option Byte) : State := { s with randomIn := r }

section RandomInput

variable {s t body : State} {ins : Instr} {f : Option (Cause × Nat)} {r : Option Byte}

/-- The step transaction is a step with the byte supplied, and the byte taken back after it. -/
theorem hostStep_eq {b : Byte} (h : step (s.supply (some b)) = .next t) : hostStep b s = .next (t.supply none) := by
  rw [hostStep, show step { s with randomIn := some b } = .next t from h]
  rfl

theorem checked_supply (h : s.checked f body = .next t) : (s.supply r).checked f (body.supply r) = .next (t.supply r) := by
  obtain ⟨c, n, rfl, rfl⟩ | ⟨rfl, rfl⟩ := checked_next h <;> rfl

theorem storeBytes_supply (bs : List Byte) (s : State) (a : Nat) (r : Option Byte) :
    (s.supply r).storeBytes a bs = (s.storeBytes a bs).supply r := by
  have hbyte (s : State) (a : Nat) (b : Byte) : (s.supply r).storeByte a b = (s.storeByte a b).supply r := by
    rw [State.storeByte, State.storeByte, apply_ite (State.supply · r)]; rfl
  induction bs generalizing s a with
  | nil => rfl
  | cons b bs ih => rw [State.storeBytes, hbyte, ih, State.storeBytes]

theorem loadBlock_supply (s : State) (n : Nat) (r : Option Byte) : (s.supply r).loadBlock n = (s.loadBlock n).supply r := by
  induction n with
  | zero => rfl
  | succ n ih => rw [State.loadBlock, ih]; rfl

/-- A store of the same bytes from I, whatever byte is supplied. -/
theorem checkedStore_supply {bs : List Byte} {a : Nat} (h : s.checked f (s.storeBytes a bs).advance = .next t) :
    (s.supply r).checked f ((s.supply r).storeBytes a bs).advance = .next (t.supply r) := by
  rw [storeBytes_supply]; exact checked_supply h

/-- Every instruction but RND does the same whatever byte is supplied. -/
theorem exec_supply (hrnd : ∀ x nn, ins ≠ .rndVxNn x nn) (h : exec ins s = .next t) :
    exec ins (s.supply r) = .next (t.supply r) := by
  cases ins with
  | rndVxNn x nn => exact absurd rfl (hrnd x nn)
  | ret | callNnn _ | drwVxVyN _ _ _ | skpVx _ | sknpVx _ => exact checked_supply h
  | ldBVx x | ldMemVx x => exact checkedStore_supply h
  | ldVxMem x =>
    rw [exec, execLdVxMem, loadBlock_supply]
    exact checked_supply h
  | ldVxK x =>
    cases hk : s.lowestKey with
    | none => rw [exec_ldVxK_of_none hk] at h; cases h; exact exec_ldVxK_of_none hk
    | some k => rw [exec_ldVxK_of_some hk] at h; cases h; exact exec_ldVxK_of_some hk
  | _ => cases h; rfl

theorem unknownOpcode_supply (h : unknownOpcode s = .next t) : unknownOpcode (s.supply r) = .next (t.supply r) := by
  obtain ⟨hp, rfl⟩ | ⟨hp, rfl⟩ | ⟨hp, rfl⟩ := unknownOpcode_cases h
  · exact unknownOpcode_stall hp
  · exact unknownOpcode_skip hp
  · exact unknownOpcode_fault hp

theorem afterStep_supply (u : State) (r : Option Byte) : (u.supply r).afterStep = u.afterStep.supply r := by
  rw [State.afterStep, State.afterStep, apply_ite (State.supply · r)]; rfl

/-- A step that does not fetch RND does the same whatever byte is supplied. -/
theorem step_supply (hrnd : ∀ x nn, ¬ Fetches s (.rndVxNn x nn)) (h : step s = .next t) :
    step (s.supply r) = .next (t.supply r) := by
  obtain ⟨hh, rfl⟩ | ⟨hrun, hpc, rfl⟩ | ⟨hrun, hpc, ins, u, hd, hu, rfl⟩ | ⟨hrun, hpc, u, hd, hu, rfl⟩ := step_cases h
  · exact step_halted hh
  · exact step_fetchFault hrun hpc
  · have hins : ∀ x nn, ins ≠ .rndVxNn x nn := fun x nn e => hrnd x nn ⟨hrun, hpc, e ▸ hd⟩
    rw [← afterStep_supply]
    exact step_of_fetches (s := s.supply r) ⟨hrun, hpc, hd⟩ (exec_supply hins hu)
  · rw [← afterStep_supply]
    exact step_of_unknown (s := s.supply r) hrun hpc hd (unknownOpcode_supply hu)

end RandomInput

/-- Settles O55: RND draws the supplied byte, and every other step is a step without the byte. -/
theorem randomByteServesOnlyRnd : Obligations.RandomByteServesOnlyRnd := by
  refine ⟨fun s x nn r hf => ?_, fun s r r' hrnd => ?_⟩
  · have hstep : step (s.supply (some r)) =
        .next ((s.supply (some r)).afterDraw.setV x ((s.supply (some r)).drawn &&& nn)).advance.tick :=
      step_eq_tick (s := s.supply (some r)) hf rfl hf.1
    refine ⟨_, hostStep_eq hstep, ?_, rfl, rfl⟩
    exact getV_setV_self (s.supply (some r)).afterDraw x (r &&& nn)
  · obtain ⟨t, ht⟩ := stepAlwaysAnswersNext s
    have hbyte (b : Byte) : hostStep b s = .next (t.supply none) :=
      hostStep_eq (t := t.supply (some b)) (step_supply hrnd ht)
    rw [hbyte, hbyte]

/-! ## The event of a step (60_exceptions.md R267) -/

/-- The step takes the unknown-opcode path and its policy reports the word (40_step_cycle.md R136). -/
def ReportsUnknown (s : State) : Prop :=
  s.halted = false ∧ s.pc.toNat ≤ 0x0FFE ∧ decodeWord s.params.decode (wordAtPc s) = none ∧ s.params.unknownOpcode ≠ .fault

section Events

variable {s t : State} {ins : Instr}

/-- No instruction emits an event, faulting or not. -/
theorem exec_reports (h : exec ins s = .next t) : t.reports = s.reports := by
  obtain hf | hf := everyInstructionKeepsItsFrame s t ins h
  · exact hf .reports (by simp [Part.faultStatus])
  · exact hf .reports (by cases ins <;> simp [Writes])

theorem afterStep_reports (u : State) : u.afterStep.reports = u.reports := by unfold State.afterStep; split <;> rfl

theorem step_reports_of_unknown (hs : ReportsUnknown s) (h : step s = .next t) :
    t.reports = { pc := s.pc, op := wordAtPc s } :: s.reports := by
  obtain ⟨hrun, hpc, hd, hpolicy⟩ := hs
  obtain ⟨u, hu⟩ := exists_unknownOpcode_next s
  cases (step_of_unknown hrun hpc hd hu).symm.trans h
  rw [afterStep_reports]
  obtain ⟨-, rfl⟩ | ⟨-, rfl⟩ | ⟨hp, -⟩ := unknownOpcode_cases hu
  · rfl
  · rfl
  · exact absurd hp hpolicy

theorem step_reports_of_not (hs : ¬ ReportsUnknown s) (h : step s = .next t) : t.reports = s.reports := by
  obtain ⟨-, rfl⟩ | ⟨-, -, rfl⟩ | ⟨-, -, ins, u, -, hu, rfl⟩ | ⟨hrun, hpc, u, hd, hu, rfl⟩ := step_cases h
  · rfl
  · rfl
  · rw [afterStep_reports, exec_reports hu]
  · have hp : s.params.unknownOpcode = .fault := not_not.1 fun hne => hs ⟨hrun, hpc, hd, hne⟩
    cases (unknownOpcode_fault hp).symm.trans hu
    rw [afterStep_reports]
    rfl

theorem emitted_of_cons {e : Report} (h : t.reports = e :: s.reports) : emitted s t = some e := by simp [emitted, h]

theorem emitted_of_eq (h : t.reports = s.reports) : emitted s t = none := by simp [emitted, h]

/-- The step transaction answers, with the event its step emitted. -/
theorem transact_step {b : Byte} (h : step (s.supply (some b)) = .next t) :
    transact s (.step b) = .next (t.supply none, .stepped (emitted s t)) := by
  rw [transact, hostStep_eq h]; rfl

end Events

/-- Settles O56: the step emits one event or none, and the transaction hands out what it emitted. -/
theorem stepReportsOnlyUnknownWords : Obligations.StepReportsOnlyUnknownWords := by
  intro s b
  obtain ⟨t, ht⟩ := stepAlwaysAnswersNext (s.supply (some b))
  refine ⟨t.supply none, (transact_step ht).trans ?_⟩
  split
  · next hs => rw [emitted_of_cons (s := s) (step_reports_of_unknown (s := s.supply (some b)) hs ht)]; rfl
  · next hs => rw [emitted_of_eq (s := s) (step_reports_of_not (s := s.supply (some b)) hs ht)]

/-! ## The invariant over the host interface -/

/-- Reset gives the invariant, whatever the state before it (70_reset_and_hazards.md R300). -/
theorem inv_hostReset (s : State) : Inv (hostReset s) where
  memory := hostReset_wf s
  pc := show (0x0200 : Word).toNat ≤ 0x10FE by decide
  stack k := by
    show ((Vector.replicate 16 (0x0000 : Word)).get k).toNat ≤ 0x0FFE
    simp [Vector.get_eq_getElem]
  cause := ⟨nofun, fun h => absurd rfl h⟩
  running _ := ⟨rfl, rfl, rfl⟩
  fetchOp _ := rfl

/-- Settles O58: reset gives the invariant, a load keeps memory canonical, a step keeps it by O19, and the other
transactions leave alone what it reads. -/
theorem everyTransactionKeepsTheInvariant : Obligations.EveryTransactionKeepsTheInvariant := by
  intro s a
  cases a with
  | reset => exact ⟨_, _, rfl, fun _ => inv_hostReset s⟩
  | loadProgram image =>
    cases image with
    | none => exact ⟨_, _, rfl, id⟩
    | some image => exact ⟨_, _, rfl, fun h => { h with memory := load_wf image h.memory _ }⟩
  | step b =>
    obtain ⟨t, ht⟩ := stepAlwaysAnswersNext (s.supply (some b))
    refine ⟨_, _, transact_step ht, fun h => ?_⟩
    have hsupplied : Inv (s.supply (some b)) := h.congr
    exact (invariantKeptByEveryStep _ t hsupplied ht).congr
  | setKey k pressed =>
    by_cases hk : k < 16
    · exact ⟨_, _, dif_pos hk, fun h => h.congr⟩
    · exact ⟨_, _, dif_neg hk, id⟩
  | readFramebuffer scale => exact ⟨_, _, rfl, id⟩
  | readStatus => exact ⟨_, _, rfl, id⟩

/-! ## The keypad, the framebuffer and the status -/

/-- Reading a key after `set_key`: the named one holds the given state, every other keeps its own (60_exceptions.md R275). -/
theorem getKey_hostSetKey (s : State) (k j : Key) (pressed : Bool) :
    (hostSetKey k pressed s).getKey j = if j = k then pressed else s.getKey j := by
  simp only [State.getKey, hostSetKey, Vector.get_eq_getElem, Vector.getElem_set, Fin.ext_iff, eq_comm]

theorem frame_hostSetKey (s : State) (k : Key) (pressed : Bool) :
    Frame (fun p => p = .key k) s (hostSetKey k pressed s) := by
  intro p hp
  cases p with
  | key j =>
    have hne : j ≠ k := fun e => hp (by rw [e])
    exact (getKey_hostSetKey s k j pressed).trans (if_neg hne)
  | _ => rfl

/-- Settles O53: the index is checked before the latch is written. -/
theorem setKeySetsOneKey : Obligations.SetKeySetsOneKey := fun s pressed =>
  ⟨fun k => ⟨_, dif_pos k.isLt, (getKey_hostSetKey s k k pressed).trans (if_pos rfl), frame_hostSetKey s k pressed⟩,
    fun _ hk => dif_neg (Nat.not_lt.2 hk)⟩

section RowMajor

variable {α : Type} (g : Nat → Nat → α) (w : Nat)

/-- The number of entries of `h` rows of `w` each. -/
theorem length_rowMajor (h : Nat) : ((List.range h).flatMap fun y => (List.range w).map (g y)).length = h * w := by
  simp [List.length_flatMap]

/-- Entry `y * w + x` of rows of `w` each, one after another, is entry `x` of row `y`. -/
theorem getElem?_rowMajor {h y x : Nat} (hx : x < w) (hy : y < h) :
    ((List.range h).flatMap fun y => (List.range w).map (g y))[y * w + x]? = some (g y x) := by
  induction h with
  | zero => exact absurd hy (Nat.not_lt_zero y)
  | succ h ih =>
    rw [List.range_succ, List.flatMap_append, List.flatMap_singleton]
    obtain hlt | rfl := Nat.lt_succ_iff_lt_or_eq.1 hy
    · have hlast : y * w + x < h * w := calc
        y * w + x < (y + 1) * w := by rw [Nat.succ_mul]; omega
        _ ≤ h * w := Nat.mul_le_mul_right w hlt
      rw [List.getElem?_append_left (by rw [length_rowMajor]; exact hlast), ih hlt]
    · rw [List.getElem?_append_right (by rw [length_rowMajor]; omega), length_rowMajor, Nat.add_sub_cancel_left]
      simp [hx]

end RowMajor

/-- Settles O54: the buffer is rows of 64 * S words, and word (py, px) shows the pixel at (py / S, px / S). -/
theorem framebufferShowsThePixels : Obligations.FramebufferShowsThePixels := by
  intro s S _
  refine ⟨_, rfl, (length_rowMajor _ _ _).trans (Nat.mul_comm _ _), fun py px row col hpx hpy hrow hcol => ?_⟩
  rw [framebuffer, getElem?_rowMajor _ _ hpx hpy, ← hrow, ← hcol, wrap_self, wrap_self]
  rfl

/-- Settles O57: the status is the five registers, with the cause as its code. -/
theorem statusShowsTheFault : Obligations.StatusShowsTheFault := ⟨fun _ => rfl, rfl⟩

end Sys2Proof.Machine

/-!
The reset family: the state after reset, and what a loaded image leaves in memory
(70_reset_and_hazards.md, O18, O49, O50, O51, O52).
-/
namespace Sys2Proof.Machine

/-! ## Reset (70_reset_and_hazards.md R300, R301) -/

/-- Settles O18: the clauses on pc, stack and fault status are those of the reset transaction; memory is canonical by
`reset_wf`. -/
theorem invariantAtReset : Obligations.InvariantAtReset := { inv_hostReset State.reset with memory := reset_wf }

/-- Past the font table the reset contents are 0. -/
theorem resetByte_of_ge {a : Nat} (ha : Config.fontSize ≤ a) : resetByte a = 0 :=
  List.getD_eq_default _ _ ha

/-- Reset puts the machine's own table FONT at 0x000 to 0x04F (20_memory.md R72). -/
theorem read_hostReset_font (s : State) (k : Fin 80) : (hostReset s).mem.read k.val = s.params.font.get k := by
  rw [read_hostReset, dif_pos k.isLt, Vector.get_eq_getElem]

/-- Reset clears every byte past the font table (10_state.md R49). -/
theorem read_hostReset_of_ge (s : State) {a : Nat} (ha : 0x050 ≤ a) : (hostReset s).mem.read a = 0 := by
  rw [read_hostReset, dif_neg (Nat.not_lt.2 ha), resetByte_of_ge ha]

theorem getV_hostReset (s : State) (k : Reg) : (hostReset s).getV k = 0 := Vector.get_replicate _ _ k

theorem stack_hostReset (s : State) (k : Fin 16) : (hostReset s).stack.get k = 0 := Vector.get_replicate _ _ k

theorem getKey_hostReset (s : State) (k : Key) : (hostReset s).getKey k = false := Vector.get_replicate _ _ k

theorem pixel_hostReset (s : State) (row : Fin 32) (col : Fin 64) : (hostReset s).display.pixel row col = false := by
  have hrow : (hostReset s).display.get row = Vector.replicate 64 false := Vector.get_replicate _ _ row
  rw [Display.pixel, hrow, Vector.get_replicate]

/-- Settles O49: memory byte by byte, the register files entry by entry; the other fields are the record's own. -/
theorem resetGivesTheResetState : Obligations.ResetGivesTheResetState := fun s =>
  ⟨hostReset s, rfl, rfl, read_hostReset_font s, fun _ => read_hostReset_of_ge s, getV_hostReset s, rfl, rfl,
    stack_hostReset s, rfl, rfl, getKey_hostReset s, pixel_hostReset s, rfl, rfl, rfl, rfl, rfl, rfl, by decide⟩

/-! ## Loading a program (70_reset_and_hazards.md R302 to R304) -/

section Load

variable {image : List Byte} {a j k : Nat} {b : Byte}

/-- A byte of the image that lands below 0x1000 is read back where it landed. -/
theorem read_load_of_getElem? (m : Memory) (hb : image[j]? = some b) (hj : a + j < Config.memSize) :
    (m.load a image).read (a + j) = b := by
  have hlen : j < image.length := (List.getElem?_eq_some_iff.1 hb).1
  rw [read_load, if_pos ⟨by omega, by omega, hj⟩, Nat.add_sub_cancel_left, List.getD_eq_getElem?_getD, hb,
    Option.getD_some]

/-- A load leaves alone every address where no byte of the image lands. -/
theorem read_load_of_outside (m : Memory) (hk : ∀ j, j < image.length → a + j < Config.memSize → k ≠ a + j) :
    (m.load a image).read k = m.read k := by
  rw [read_load, if_neg]
  rintro ⟨hak, hlen, hmem⟩
  exact hk (k - a) (by omega) (by omega) (by omega)

/-- `load_program` changes the bytes where the image lands, and nothing else. -/
theorem frame_hostLoad (image : List Byte) (s : State) :
    Frame (fun p => ∃ j, j < image.length ∧ 0x200 + j ≤ 0xFFF ∧ p = .memory (0x200 + j)) s (hostLoad image s) := by
  intro p hp
  cases p with
  | memory k =>
    exact read_load_of_outside s.mem fun j hj hmem e => hp ⟨j, hj, Nat.le_of_lt_succ hmem, congrArg Part.memory e⟩
  | _ => rfl

end Load

/-- Settles O50, from what a load leaves in memory. -/
theorem loadPlacesTheImage : Obligations.LoadPlacesTheImage := fun s image =>
  ⟨hostLoad image s, rfl, fun _ _ hb hj => read_load_of_getElem? s.mem hb (Nat.lt_succ_of_le hj), frame_hostLoad image s⟩

/-- Settles O51: an image that could not be read reaches no update of the state. -/
theorem failedLoadChangesNothing : Obligations.FailedLoadChangesNothing := fun _ => rfl

/-- Settles O52: pc is 0x0200, where the load placed the first two bytes. -/
theorem loadedProgramIsFetchedFirst : Obligations.LoadedProgramIsFetchedFirst := by
  intro s b₀ b₁ rest
  have hfirst : (hostLoad (b₀ :: b₁ :: rest) (hostReset s)).mem.read (0x200 + 0) = b₀ :=
    read_load_of_getElem? _ rfl (by decide)
  have hsecond : (hostLoad (b₀ :: b₁ :: rest) (hostReset s)).mem.read (0x200 + 1) = b₁ :=
    read_load_of_getElem? _ rfl (by decide)
  exact ⟨_, _, rfl, rfl, rfl, congrArg₂ (· ++ ·) hfirst hsecond⟩

end Sys2Proof.Machine
